-- ==== Sys2Proof/Word.lean ====
section
/-! DEFINITION. The word and byte types of the machine: registers, addresses and bus transfers are
16 bits (spec/00_scope.md R8, R11; spec/20_memory.md R70). -/

namespace Sys2Proof

/-- A 16-bit word: the unit of registers, addresses and bus transfers (R11, R70). -/
abbrev Word := BitVec 16

/-- Half a word. The machine addresses no bytes (R76); the type is used for double byte data (R158)
and for the cells that hold memory. -/
abbrev Byte := BitVec 8

end Sys2Proof
end

