-- ==== Sys2Proof/Config.lean ====
section
/-! DEFINITION. The free values: what the spec leaves to the platform or calls arbitrary, as constants
without a body, applied to the model's free-value counter (or to an address). Nothing in Lean can
evaluate them, so every theorem holds whatever they are. -/

namespace Sys2Proof

/-- The level of pin EBCI when the external logic is asked about a condition number and the
environment sample does not state it: `ebci n e` is the answer at the `n`-th consultation for
selector `e` (spec/41_branches.md R219, an oracle; log 10). -/
opaque Config.ebci : Nat → BitVec 4 → Bool

/-- The word a device, or the undriven bus at an address with nothing on it, puts on the bus at the
`n`-th consultation (spec/20_memory.md R79; spec/93_implementation_defined.md U5; log 7). -/
opaque Config.busWord : Nat → Word

/-- What the lines that a narrow memory at an address does not drive read as: any value, fixed for
the platform (spec/20_memory.md R72; spec/93_implementation_defined.md U17; log 8). -/
opaque Config.undriven : Word → Word

/-- The arbitrary contents of register number `k` after the initialization sequence that reads the
free-value counter at `n` (spec/70_reset_and_hazards.md R392; log 11). -/
opaque Config.initRegister : Nat → Nat → Word

/-- The arbitrary value of status bit `k` (S, Z, C, OV as 0 to 3) after the initialization sequence
that reads the free-value counter at `n` (spec/70_reset_and_hazards.md R392; log 11). -/
opaque Config.initStatus : Nat → Nat → Bool

end Sys2Proof
end

