-- ==== Sys2Proof/Syntax.lean ====
section
/-! DEFINITION. The instruction set: one constructor for each of the 84 rows of
spec/opcode_table.json. Operands stand in the assembler's order, source before destination
(spec/30_encoding.md R130). The nine rows that are a second name of another row's words
(spec/30_encoding.md R127) have constructors too; the decoder answers the core instruction (log 12). -/

namespace Sys2Proof

/-- A general register (spec/10_state.md R30). `r7` is the program counter, `r6` the stack pointer. -/
inductive Reg where
  | r0 | r1 | r2 | r3 | r4 | r5 | r6 | r7
  deriving DecidableEq, Repr

/-- Bit S of a branch: the displacement is added (0) or its one's complement is (1)
(spec/30_encoding.md R115). -/
inductive Dir where
  | forward | backward
  deriving DecidableEq, Repr

/-- Bit N of a shift: one position (0) or two (1) (spec/30_encoding.md R117). -/
inductive Count where
  | one | two
  deriving DecidableEq, Repr

/-- An instruction with its operands. Direct addresses, immediates, displacements and jump addresses
are whole 16-bit words (spec/30_encoding.md R122). -/
inductive Instr where
  -- internal control (spec/45_internal_control.md)
  /-- HLT (R300). -/
  | hlt
  /-- SDBD (R301). -/
  | sdbd
  /-- EIS (R302). -/
  | eis
  /-- DIS (R303). -/
  | dis
  /-- TCI (R304). -/
  | tci
  /-- CLRC (R305). -/
  | clrc
  /-- SETC (R306). -/
  | setc
  -- jump group (spec/46_jump.md)
  /-- J DA (R321). -/
  | j (address : Word)
  /-- JE DA (R323). -/
  | je (address : Word)
  /-- JD DA (R324). -/
  | jd (address : Word)
  /-- JSR Rb,DA (R322): `link` is R4, R5 or R6. -/
  | jsr (link : Reg) (address : Word)
  /-- JSRE Rb,DA (R325). -/
  | jsre (link : Reg) (address : Word)
  /-- JSRD Rb,DA (R326). -/
  | jsrd (link : Reg) (address : Word)
  /-- The jump words with DE = 11, to which the spec gives no meaning (R328). -/
  | undefJumpDe11 (bb : BitVec 2) (address : Word)
  -- single register (spec/44_single_register.md)
  /-- INCR Rd (R280). -/
  | incr (d : Reg)
  /-- DECR Rd (R281). -/
  | decr (d : Reg)
  /-- COMR Rd (R282). -/
  | comr (d : Reg)
  /-- NEGR Rd (R283). -/
  | negr (d : Reg)
  /-- ADCR Rd (R284). -/
  | adcr (d : Reg)
  /-- RSWD Rs (R288). -/
  | rswd (s : Reg)
  /-- GSWD Rd (R285): `d` is R0 to R3. -/
  | gswd (d : Reg)
  /-- NOP (R286); `n` is the ignored bit 0. -/
  | nop (n : Bool)
  /-- SIN (R287); `n` is the ignored bit 0. -/
  | sin (n : Bool)
  -- shifts (spec/43_register_shift.md): `r` is R0 to R3
  /-- SWAP Rr,n (R252). -/
  | swap (r : Reg) (n : Count)
  /-- SLL Rr,n (R253). -/
  | sll (r : Reg) (n : Count)
  /-- RLC Rr,n (R254). -/
  | rlc (r : Reg) (n : Count)
  /-- SLLC Rr,n (R255). -/
  | sllc (r : Reg) (n : Count)
  /-- SLR Rr,n (R256). -/
  | slr (r : Reg) (n : Count)
  /-- SAR Rr,n (R257). -/
  | sar (r : Reg) (n : Count)
  /-- RRC Rr,n (R258). -/
  | rrc (r : Reg) (n : Count)
  /-- SARC Rr,n (R259). -/
  | sarc (r : Reg) (n : Count)
  -- register to register (spec/42_register_register.md)
  /-- MOVR Rs,Rd (R231). -/
  | movr (s d : Reg)
  /-- ADDR Rs,Rd (R232). -/
  | addr (s d : Reg)
  /-- SUBR Rs,Rd (R233). -/
  | subr (s d : Reg)
  /-- CMPR Rs,Rd (R234). -/
  | cmpr (s d : Reg)
  /-- ANDR Rs,Rd (R235). -/
  | andr (s d : Reg)
  /-- XORR Rs,Rd (R236). -/
  | xorr (s d : Reg)
  -- branches (spec/41_branches.md): direction bit and displacement word
  /-- B (R201). -/
  | b (dir : Dir) (disp : Word)
  /-- BC (R202). -/
  | bc (dir : Dir) (disp : Word)
  /-- BOV (R203). -/
  | bov (dir : Dir) (disp : Word)
  /-- BPL (R204). -/
  | bpl (dir : Dir) (disp : Word)
  /-- BZE (R205). -/
  | bze (dir : Dir) (disp : Word)
  /-- BLT (R206). -/
  | blt (dir : Dir) (disp : Word)
  /-- BLE (R207). -/
  | ble (dir : Dir) (disp : Word)
  /-- BUSC (R208). -/
  | busc (dir : Dir) (disp : Word)
  /-- NOPP (R209). -/
  | nopp (dir : Dir) (disp : Word)
  /-- BNC (R210). -/
  | bnc (dir : Dir) (disp : Word)
  /-- BNOV (R211). -/
  | bnov (dir : Dir) (disp : Word)
  /-- BMI (R212). -/
  | bmi (dir : Dir) (disp : Word)
  /-- BNZE (R213). -/
  | bnze (dir : Dir) (disp : Word)
  /-- BGE (R214). -/
  | bge (dir : Dir) (disp : Word)
  /-- BGT (R215). -/
  | bgt (dir : Dir) (disp : Word)
  /-- BESC (R216). -/
  | besc (dir : Dir) (disp : Word)
  /-- BEXT DA,E (R219). -/
  | bext (dir : Dir) (disp : Word) (e : BitVec 4)
  -- external reference (spec/40_external_reference.md): direct, immediate, indirect
  /-- MVO Rs,A (R165). -/
  | mvo (s : Reg) (address : Word)
  /-- MVOI Rs,I (R166): the second word is written, never read (log 19). -/
  | mvoi (s : Reg)
  /-- MVO@ Rs,Rm (R163): `m` is R1 to R6. -/
  | mvoAt (s m : Reg)
  /-- MVI A,Rd (R168). -/
  | mvi (address : Word) (d : Reg)
  /-- MVII I,Rd (R170); after SDBD `imm` is the value of the two data words (R160, log 20). -/
  | mvii (imm : Word) (d : Reg)
  /-- MVI@ Rm,Rd (R167): `m` is R1 to R6. -/
  | mviAt (m d : Reg)
  /-- ADD A,Rd (R171). -/
  | add (address : Word) (d : Reg)
  /-- ADDI I,Rd (R171); after SDBD `imm` is the value of the two data words (R160, log 20). -/
  | addi (imm : Word) (d : Reg)
  /-- ADD@ Rm,Rd (R171): `m` is R1 to R6. -/
  | addAt (m d : Reg)
  /-- SUB A,Rd (R172). -/
  | sub (address : Word) (d : Reg)
  /-- SUBI I,Rd (R172); after SDBD `imm` is the value of the two data words (R160, log 20). -/
  | subi (imm : Word) (d : Reg)
  /-- SUB@ Rm,Rd (R172): `m` is R1 to R6. -/
  | subAt (m d : Reg)
  /-- CMP A,Rs (R173). -/
  | cmp (address : Word) (s : Reg)
  /-- CMPI I,Rs (R173); after SDBD `imm` is the value of the two data words (R160, log 20). -/
  | cmpi (imm : Word) (s : Reg)
  /-- CMP@ Rm,Rs (R173): `m` is R1 to R6. -/
  | cmpAt (m s : Reg)
  /-- AND A,Rd (R174). -/
  | and (address : Word) (d : Reg)
  /-- ANDI I,Rd (R174); after SDBD `imm` is the value of the two data words (R160, log 20). -/
  | andi (imm : Word) (d : Reg)
  /-- AND@ Rm,Rd (R174): `m` is R1 to R6. -/
  | andAt (m d : Reg)
  /-- XOR A,Rd (R175). -/
  | xor (address : Word) (d : Reg)
  /-- XORI I,Rd (R175); after SDBD `imm` is the value of the two data words (R160, log 20). -/
  | xori (imm : Word) (d : Reg)
  /-- XOR@ Rm,Rd (R175): `m` is R1 to R6. -/
  | xorAt (m d : Reg)
  -- second names (spec/30_encoding.md R127)
  /-- TSTR Rs, which is MOVR Rs,Rs (R237). -/
  | tstr (s : Reg)
  /-- JR Rs, which is MOVR Rs,R7 (R238). -/
  | jr (s : Reg)
  /-- CLRR Rd, which is XORR Rd,Rd (R239). -/
  | clrr (d : Reg)
  /-- PSHR Rs, which is MVO@ Rs,R6 (R164). -/
  | pshr (s : Reg)
  /-- PULR Rd, which is MVI@ R6,Rd (R169). -/
  | pulr (d : Reg)
  /-- BLGT, which is BC (R202). -/
  | blgt (dir : Dir) (disp : Word)
  /-- BLLT, which is BNC (R210). -/
  | bllt (dir : Dir) (disp : Word)
  /-- BEQ, which is BZE (R205). -/
  | beq (dir : Dir) (disp : Word)
  /-- BNEQ, which is BNZE (R213). -/
  | bneq (dir : Dir) (disp : Word)
  deriving DecidableEq, Repr

end Sys2Proof
end

