-- ==== Sys2Proof/Machine/State.lean ====
section
/-! DEFINITION. The machine's state as plain data: the tuple of spec/10_state.md R54, the platform's
parameters (spec/00_scope.md R9), the memory, what the environment presents on the pins, and the
model's own records. Reset is spec/70_reset_and_hazards.md R391 to R396. -/

namespace Sys2Proof.Machine

/-- The eight general registers (spec/10_state.md R30). -/
structure Regs where
  r0 : Word
  r1 : Word
  r2 : Word
  r3 : Word
  r4 : Word
  r5 : Word
  r6 : Word
  r7 : Word
  deriving DecidableEq, Repr

/-- The four status bits (spec/10_state.md R40): S sign, Z zero, C carry, OV overflow. -/
structure Status where
  s : Bool
  z : Bool
  c : Bool
  ov : Bool
  deriving DecidableEq, Repr

/-- The run state (spec/10_state.md R48). -/
inductive Run where
  | running | stopped
  deriving DecidableEq, Repr

/-- Which result bit S takes after the right shifts and SWAP: RSHIFT_S_BIT = 7 or 15
(spec/43_register_shift.md R251). -/
inductive ShiftSBit where
  | bit7 | bit15
  deriving DecidableEq, Repr

/-- What the platform has placed at a location (spec/20_memory.md R79). -/
inductive Kind where
  | ram | rom | device | nothing
  deriving DecidableEq, Repr

/-- A range of addresses of one kind and width: MemoryMap and MemWidth (spec/00_scope.md R9;
spec/20_memory.md R72, R79). -/
structure Region where
  base : Nat
  size : Nat
  kind : Kind
  /-- The number of data lines the memory has, 10 to 16; 16 or more means all. -/
  width : Nat
  deriving DecidableEq, Repr

/-- The parameters left to the platform, fixed for a machine: no step writes them
(spec/00_scope.md R9; log 5, log 6). -/
structure Platform where
  /-- RESET_VECTOR: the word on the bus under IAB at initialization. -/
  resetVector : Word
  /-- HLT_AFTER_NEXT: HLT stops after the following instruction. -/
  hltAfterNext : Bool
  /-- RSHIFT_S_BIT. -/
  shiftSBit : ShiftSBit
  /-- MVO_INTERRUPTIBLE: requests are honoured directly after an MVO form. -/
  mvoInterruptible : Bool
  /-- MemoryMap and MemWidth; the first region that holds an address decides, and an address in no
  region is 16-bit read/write memory. -/
  regions : List Region
  deriving DecidableEq, Repr

/-- One sample of what the environment presents on the pins (spec/60_exceptions.md R341 to R347,
R355, R361; log 9). Levels are given as asserted or not. -/
structure Pins where
  /-- MSYNC* is low. -/
  msync : Bool
  /-- A negative edge has come on STPST. -/
  stpst : Bool
  /-- BUSRQ* is low. -/
  busrq : Bool
  /-- INTR* is low. -/
  intr : Bool
  /-- INTRM* is low. -/
  intrm : Bool
  /-- The word the acknowledged device drives under IAB: IntVector(). -/
  vector : Word
  /-- The sixteen external conditions, bit `e` for selector `e`; `none` where the sample does not
  state them. -/
  conditions : Option (BitVec 16)
  /-- The writes other bus masters make in this sample, in order, if the bus is released. -/
  dma : List (Word × Word)
  deriving DecidableEq, Repr

/-- The eight bus control codes, in the order of their numbers (spec/20_memory.md R73). -/
inductive BusCode where
  | nact | bar | iab | dws | adar | dw | dtb | intak
  deriving DecidableEq, Repr

/-- What D0 to D15 are at the CPU under a bus control code (spec/20_memory.md R73). -/
inductive DataLines where
  | highImpedance | output | input
  deriving DecidableEq, Repr

/-- What a device, the external logic or an observer of the bus sees the CPU do: the bus control codes with
the word that is on the bus under them, and the other output pins (log 17). -/
inductive Event where
  /-- NACT: a micro state in which the CPU does not use the bus, within an instruction, and for each sample of a
  bus grant, of the stopped mode and of MSYNC* held low (spec/20_memory.md R73). -/
  | nact
  /-- BAR: the CPU puts an address out, and the external address register takes it (R73). -/
  | bar (address : Word)
  /-- ADAR: the addressed memory drives an address, and the external address register takes it (R73). -/
  | adar (address : Word)
  /-- DTB: the addressed location drives a word, and the CPU takes it (R73). -/
  | dtb (value : Word)
  /-- DW: the CPU puts out the word to be written, one cycle before the strobe (R73). -/
  | dw (value : Word)
  /-- DWS: the strobe that writes the word (R73). -/
  | dws (value : Word)
  /-- IAB: the platform drives the next program counter, and the CPU takes it (R73). -/
  | iab (value : Word)
  /-- INTAK: the CPU puts the stack pointer out, and the external address register takes it (R73;
  spec/60_exceptions.md R346). -/
  | intak (address : Word)
  /-- The pulse on the TCI pin (spec/45_internal_control.md R304). -/
  | tciPulse
  /-- The pulse on the PCIT* pin (spec/44_single_register.md R287). -/
  | pcitPulse
  /-- The levels on EBCA3..0: bits 3..0 of the instruction register, when an instruction enters it (spec/10_state.md
  R49), and when BEXT asks for the condition of that number (spec/41_branches.md R219). -/
  | select (e : BitVec 4)
  deriving DecidableEq, Repr

/-- Memory: the cells that do not read as an unlisted cell does, by rising key. The word at address
`a` is the cell `2a` (bits 7..0) and the cell `2a + 1` (bits 15..8): the machine itself addresses
words only (spec/20_memory.md R76; log 1). -/
abbrev Memory := List Host.Cell

/-- The whole machine. The first block is the tuple of spec/10_state.md R54. -/
structure State where
  /-- R0 to R7 (R30). -/
  regs : Regs
  /-- S, Z, C, OV (R40). -/
  status : Status
  /-- The interrupt-enable flip-flop (R45). -/
  intff : Bool
  /-- The double-byte-data flag D (R47). -/
  dbl : Bool
  /-- Running or Stopped (R48). -/
  run : Run
  /-- HLT has been executed and the stop is due after the next instruction (R48). -/
  haltPending : Bool
  /-- BUSAK* is low: the CPU has released the bus (R50). -/
  busReleased : Bool
  /-- A stop edge has been recorded and not yet acted on (spec/60_exceptions.md R354, R361). -/
  stopPending : Bool
  /-- The next thing to happen is the examination of requests at an interruptable boundary, not a
  fetch (spec/60_exceptions.md R351; log 13). -/
  boundaryOpen : Bool
  /-- MSYNC* was low in the last sample: the CPU is held inactive, and the initialization sequence is due
  when it goes high (spec/70_reset_and_hazards.md R390, R391; log 11). -/
  syncLow : Bool
  /-- The one address space (R53). -/
  mem : Memory
  /-- The platform's parameters. -/
  plat : Platform
  /-- The sample this step sees (log 9). -/
  pins : Pins
  /-- The samples of the steps to come; when it is empty the pins are quiet (log 9). -/
  env : List Pins
  /-- How many free values have been consulted (the model's own; log 10). -/
  oracle : Nat
  /-- What has been done on the bus and the output pins, newest first (the model's own; log 17). -/
  events : List Event
  /-- The cycles of the instructions completed, without waits (the model's own; log 18). -/
  cycles : Nat
  deriving DecidableEq, Repr

/-- Why the machine stops with a fault. There is no constructor: no instruction can trap, fault or
abort, and no access can fail (spec/60_exceptions.md R340; spec/20_memory.md R77, R79; log 23).
Nothing raises it, so it is neither safe nor unsafe. -/
inductive Fault where
  deriving DecidableEq, Repr

/-- Why an instruction has no meaning. Every constructor is a form the spec itself refuses
(spec/93_implementation_defined.md U1 to U4; log 16), but the first. All are safe: a stop proves
nothing false about the hardware. -/
inductive Refusal where
  /-- An instruction of the table this model has no meaning for yet: raised only by an arm of `exec`;
  no arm raises it now. Safe. -/
  | notModelled (mnemonic : String)
  /-- U1: an input external reference in mode 000 or 110 directly after SDBD; raised by the direct
  forms and by the `@` forms through R6. Safe. -/
  | doubleByteModeNotSupported
  /-- U2: anything but an input external reference directly after SDBD; raised by every other
  instruction. Safe. -/
  | doubleByteNotForThisInstruction
  /-- U3: MVO through the register it stores, when the mode changes that register (R4 to R7); raised
  by MVO@, PSHR and MVOI. Safe. -/
  | moveOutOfOwnPointer
  /-- U4: a jump whose second word has bits 1..0 = 11; raised by UNDEF_JUMP_DE11. Safe. -/
  | jumpInterruptControl11
  deriving DecidableEq, Repr

/-- Pins with nothing asserted and nothing stated: what a step sees when the environment supplies no
sample (DESIGN CHOICE, log 9; unsafe). -/
def Pins.quiet : Pins where
  msync := false
  stpst := false
  busrq := false
  intr := false
  intrm := false
  vector := 0
  conditions := none
  dma := []

/-- The platform of State.reset: the spec's defaults (spec/92_eei_decisions.md, the table of
parameters), and reset vector 0, for which the spec gives no default (DESIGN CHOICE, log 4; unsafe). -/
def Platform.default : Platform where
  resetVector := 0x0000
  hltAfterNext := true
  shiftSBit := .bit7
  mvoInterruptible := true
  regions := []

/-- The machine right after the initialization sequence (spec/70_reset_and_hazards.md R391 to R394).
R0 to R6 and the status bits, which the spec calls arbitrary there, are 0 (DESIGN CHOICE, log 3;
unsafe). -/
def State.reset : State where
  regs := ⟨0, 0, 0, 0, 0, 0, 0, Platform.default.resetVector⟩
  status := ⟨false, false, false, false⟩
  intff := false
  dbl := false
  run := .running
  haltPending := false
  busReleased := false
  stopPending := false
  boundaryOpen := false
  syncLow := false
  mem := []
  plat := .default
  pins := .quiet
  env := []
  oracle := 0
  events := []
  cycles := 0

end Sys2Proof.Machine
end

