-- ==== Sys2Proof/Machine/Flags.lean ====
section
/-! DEFINITION. Every flag computation of the spec: the adder with its carry and overflow, S and Z of a
result, the status word of GSWD and RSWD, and the branch conditions. -/

namespace Sys2Proof.Machine

/-- What the 17-bit adder gives: the sum's low 16 bits, the carry out of bit 15, and two's complement
overflow (spec/00_scope.md R12). -/
structure Sum17 where
  sum : Word
  cout : Bool
  ovf : Bool
  deriving DecidableEq, Repr

/-- `Add17(a, b, cin)` (spec/00_scope.md R12; spec/10_state.md R42). -/
def add17 (a b : Word) (cin : Bool) : Sum17 :=
  let t : BitVec 17 := a.zeroExtend 17 + b.zeroExtend 17 + (BitVec.ofBool cin).zeroExtend 17
  let sum : Word := t.extractLsb' 0 16
  { sum := sum
    cout := t.getLsbD 16
    ovf := a.msb == b.msb && sum.msb != a.msb }

/-- `Add17(a, ~b, 1)`: subtraction by adding the two's complement (spec/10_state.md R42). -/
def sub17 (a b : Word) : Sum17 := add17 a (~~~b) true

/-- `SetSZ(r)`: S is bit 15 of the result, Z says the result is 0 (spec/00_scope.md R12). -/
def Status.setSZ (f : Status) (r : Word) : Status := { f with s := r.msb, z := r == 0 }

/-- All four status bits of an addition or subtraction (spec/10_state.md R41). -/
def Status.ofSum (t : Sum17) : Status := { s := t.sum.msb, z := t.sum == 0, c := t.cout, ov := t.ovf }

/-- The result bit that S takes after the right shifts and SWAP (spec/43_register_shift.md R251). -/
def ShiftSBit.of (b : ShiftSBit) (r : Word) : Bool :=
  match b with
  | .bit7 => r.getLsbD 7
  | .bit15 => r.getLsbD 15

/-- The status word GSWD builds: S, Z, OV, C in bits 15..12 and again in bits 7..4, the rest 0
(spec/10_state.md R44; spec/44_single_register.md R285). -/
def Status.word (f : Status) : Word :=
  let n : BitVec 4 := BitVec.ofBool f.s ++ BitVec.ofBool f.z ++ BitVec.ofBool f.ov ++ BitVec.ofBool f.c
  n ++ 0#4 ++ n ++ 0#4

/-- The status bits RSWD takes from a word: bits 7, 6, 5, 4 to S, Z, OV, C
(spec/10_state.md R44; spec/44_single_register.md R288). -/
def Status.ofWord (w : Word) : Status :=
  { s := w.getLsbD 7, z := w.getLsbD 6, ov := w.getLsbD 5, c := w.getLsbD 4 }

/-- Signed less than, after a compare: S xor OV (spec/41_branches.md R206). -/
def Status.less (f : Status) : Bool := f.s ^^ f.ov

/-- Signed less than or equal, after a compare: Z or (S xor OV) (spec/41_branches.md R207). -/
def Status.lessOrEqual (f : Status) : Bool := f.z || (f.s ^^ f.ov)

/-- C xor S (spec/41_branches.md R208). -/
def Status.unequalSignCarry (f : Status) : Bool := f.c ^^ f.s

end Sys2Proof.Machine
end

