-- ==== Sys2Proof/Machine/Memory.lean ====
section
/-! DEFINITION. Memory as a canonical list of cells, and its words (spec/20_memory.md R70, R71, R76). -/

namespace Sys2Proof.Machine

/-- What a cell that memory does not list reads as (DESIGN CHOICE, log 2: the spec gives the contents
of unwritten memory no value, spec/93_implementation_defined.md U7; unsafe). -/
def Memory.unlisted : Byte := 0

/-- The number of cells: two for each of the 65,536 words (spec/20_memory.md R71; log 1). -/
def Memory.cells : Nat := 2 * 65536

/-- The canonical form from key `lo` on: keys strictly rise and lie in the address space, and no entry
is equal to what an unlisted cell reads as. -/
def Memory.wfFrom (lo : Nat) : Memory → Bool
  | [] => true
  | (k, v) :: rest =>
    decide (lo ≤ k) && decide (k < Memory.cells) && v != Memory.unlisted && Memory.wfFrom (k + 1) rest

/-- The canonical form of memory. -/
def Memory.wf (m : Memory) : Bool := m.wfFrom 0

/-- The cell at key `k`. -/
def Memory.readByte (k : Nat) : Memory → Byte
  | [] => Memory.unlisted
  | (k', v) :: rest => if k' = k then v else Memory.readByte k rest

/-- Store `v` in the cell at key `k`, keeping the canonical form. -/
def Memory.writeByte (k : Nat) (v : Byte) : Memory → Memory
  | [] => if v = Memory.unlisted then [] else [(k, v)]
  | (k', v') :: rest =>
    if k < k' then (if v = Memory.unlisted then (k', v') :: rest else (k, v) :: (k', v') :: rest)
    else if k = k' then (if v = Memory.unlisted then rest else (k, v) :: rest)
    else (k', v') :: Memory.writeByte k v rest

/-- The word at an address: all of its 16 bits (spec/20_memory.md R70, R76). -/
def Memory.readWord (a : Word) (m : Memory) : Word :=
  m.readByte (2 * a.toNat + 1) ++ m.readByte (2 * a.toNat)

/-- Store a word at an address (spec/20_memory.md R70, R76). -/
def Memory.writeWord (a v : Word) (m : Memory) : Memory :=
  (m.writeByte (2 * a.toNat) (v.extractLsb' 0 8)).writeByte (2 * a.toNat + 1) (v.extractLsb' 8 8)

end Sys2Proof.Machine
end

