-- ==== Sys2Proof/Machine/Ops.lean ====
section
/-! DEFINITION. The named operations over registers, the bus and the flip-flops that the meanings are
written with, the interrupt sequence with the return from it, and the initialization sequence. -/

namespace Sys2Proof.Machine

/-- What a step, or a meaning, answers. -/
abbrev Result := Host.Outcome State Fault Refusal

/-! Registers (spec/10_state.md R30) -/

/-- The contents of a register. -/
def Regs.get (x : Regs) : Reg → Word
  | .r0 => x.r0
  | .r1 => x.r1
  | .r2 => x.r2
  | .r3 => x.r3
  | .r4 => x.r4
  | .r5 => x.r5
  | .r6 => x.r6
  | .r7 => x.r7

/-- The registers with one of them written. No register is hard-wired (R30). -/
def Regs.set (x : Regs) (r : Reg) (v : Word) : Regs :=
  match r with
  | .r0 => { x with r0 := v }
  | .r1 => { x with r1 := v }
  | .r2 => { x with r2 := v }
  | .r3 => { x with r3 := v }
  | .r4 => { x with r4 := v }
  | .r5 => { x with r5 := v }
  | .r6 => { x with r6 := v }
  | .r7 => { x with r7 := v }

/-- `x[r]` (spec/00_scope.md R12). -/
def State.reg (s : State) (r : Reg) : Word := s.regs.get r

/-- `x[r] <- v` (spec/00_scope.md R12). -/
def State.setReg (s : State) (r : Reg) (v : Word) : State := { s with regs := s.regs.set r v }

/-- The program counter, which is R7 (spec/10_state.md R33). -/
def State.pc (s : State) : Word := s.reg .r7

/-- `pc <- v`. -/
def State.setPc (s : State) (v : Word) : State := s.setReg .r7 v

/-- Write the status bits. -/
def State.setStatus (s : State) (f : Status) : State := { s with status := f }

/-- Write S and Z from a result and leave C and OV (spec/00_scope.md R12). -/
def State.setSZ (s : State) (r : Word) : State := s.setStatus (s.status.setSZ r)

/-- Write the interrupt-enable flip-flop (spec/10_state.md R45). -/
def State.setIntff (s : State) (b : Bool) : State := { s with intff := b }

/-- Write the double-byte-data flag (spec/10_state.md R47). -/
def State.setDbl (s : State) (b : Bool) : State := { s with dbl := b }

/-- `emit(event)` (spec/00_scope.md R12). -/
def State.emit (s : State) (e : Event) : State := { s with events := e :: s.events }

/-- NACT in `n` micro states (spec/20_memory.md R73). -/
def State.idle (s : State) (n : Nat) : State := { s with events := List.replicate n .nact ++ s.events }

/-- Count one consultation of a free value (log 10). -/
def State.consult (s : State) : State := { s with oracle := s.oracle + 1 }

/-! The bus control codes (spec/20_memory.md R73) -/

/-- The levels of BC1, BC2 and BDIR, bits 2, 1 and 0. -/
def BusCode.pins : BusCode → BitVec 3
  | .nact => 0b000
  | .bar => 0b001
  | .iab => 0b010
  | .dws => 0b011
  | .adar => 0b100
  | .dw => 0b101
  | .dtb => 0b110
  | .intak => 0b111

/-- D0 to D15 at the CPU. -/
def BusCode.dataLines : BusCode → DataLines
  | .nact | .adar => .highImpedance
  | .bar | .dws | .dw | .intak => .output
  | .iab | .dtb => .input

/-- The bus control code of an event, if it is one of the bus. -/
def Event.code : Event → Option BusCode
  | .nact => some .nact
  | .bar _ => some .bar
  | .adar _ => some .adar
  | .dtb _ => some .dtb
  | .dw _ => some .dw
  | .dws _ => some .dws
  | .iab _ => some .iab
  | .intak _ => some .intak
  | .tciPulse | .pcitPulse | .select _ => none

/-! The bus (spec/20_memory.md) -/

/-- The region decides for the addresses from `base` on, `size` of them. -/
def Region.holds (r : Region) (a : Word) : Bool :=
  decide (r.base ≤ a.toNat) && decide (a.toNat < r.base + r.size)

/-- The kind of a location: the first region that holds it, else read/write memory
(spec/20_memory.md R79; log 6). -/
def Platform.kindOf (p : Platform) (a : Word) : Kind :=
  match p.regions.find? (·.holds a) with
  | some r => r.kind
  | none => .ram

/-- The width of a location: that of the first region that holds it, else 16
(spec/20_memory.md R72; log 6). -/
def Platform.widthOf (p : Platform) (a : Word) : Nat :=
  match p.regions.find? (·.holds a) with
  | some r => r.width
  | none => 16

/-- The low `width` bits, the only ones a memory of that width has room for. -/
def lowMask (width : Nat) : Word := BitVec.ofNat 16 (2 ^ width - 1)

/-- What a memory of the given width puts on the bus: its own bits, and whatever the undriven lines
read as above them (spec/20_memory.md R72; spec/93_implementation_defined.md U17). -/
def drive (width : Nat) (a v : Word) : Word :=
  if 16 ≤ width then v else (v &&& lowMask width) ||| (Config.undriven a &&& ~~~lowMask width)

/-- What a memory of the given width keeps of a word (spec/40_external_reference.md R162). -/
def keep (width : Nat) (v : Word) : Word := if 16 ≤ width then v else v &&& lowMask width

/-- The word on the bus when a location is read (spec/20_memory.md R79): memory answers with its
contents, a device or an empty address with a free value. -/
def State.busValue (s : State) (a : Word) : Word :=
  match s.plat.kindOf a with
  | .ram | .rom => drive (s.plat.widthOf a) a (s.mem.readWord a)
  | .device | .nothing => Config.busWord s.oracle

/-- The location `a`, whose address the external address register holds, drives its word on the bus under
the code `gate`: DTB or ADAR (spec/20_memory.md R74). -/
def State.gateOnBus (s : State) (gate : Word → Event) (a : Word) : Word × State :=
  (s.busValue a, (s.emit (gate (s.busValue a))).consult)

/-- The address goes to the external address register: BAR, NACT (spec/20_memory.md R74;
spec/70_reset_and_hazards.md R400; log 17). -/
def State.sendAddress (s : State) (a : Word) : State := (s.emit (.bar a)).emit .nact

/-- `MemRead(a, 16)`: BAR, NACT, DTB (spec/20_memory.md R70, R74; spec/70_reset_and_hazards.md R400). -/
def State.busRead (s : State) (a : Word) : Word × State := (s.sendAddress a).gateOnBus .dtb a

/-- The first half of a direct-address access: BAR with the address `a` of the second instruction word, and
ADAR, under which that word goes to the address register, each with the NACT after it (spec/20_memory.md R74;
log 17). -/
def State.addressRead (s : State) (a : Word) : Word × State :=
  let (w, t) := (s.sendAddress a).gateOnBus .adar a
  (w, t.emit .nact)

/-- The second half of a direct-address read: DTB alone, the address being in the address register already
(spec/20_memory.md R74). -/
def State.directRead (s : State) (a : Word) : Word × State := s.gateOnBus .dtb a

/-- What a write does to the platform's memory: read/write memory stores the word, any other location
does not (spec/20_memory.md R79; log 7). -/
def State.store (s : State) (a v : Word) : State :=
  match s.plat.kindOf a with
  | .ram => { s with mem := s.mem.writeWord a (keep (s.plat.widthOf a) v) }
  | .rom | .device | .nothing => s

/-- DW and DWS: the word goes to the location whose address the external address register holds
(spec/20_memory.md R73, R74). -/
def State.strobe (s : State) (a v : Word) : State := ((s.store a v).emit (.dw v)).emit (.dws v)

/-- The write to a direct address, which ADAR has put into the address register: DW, DWS, NACT
(spec/20_memory.md R74; spec/40_external_reference.md R162; log 17). -/
def State.directWrite (s : State) (a v : Word) : State := (s.strobe a v).emit .nact

/-- `MemWrite(a, 16, v)`: BAR, NACT, DW, DWS, NACT (spec/20_memory.md R70, R74; log 17). -/
def State.busWrite (s : State) (a v : Word) : State := (s.sendAddress a).directWrite a v

/-- The writes of other bus masters, in order, while the bus is released (spec/20_memory.md R84). -/
def State.dmaWrites (s : State) : List (Word × Word) → State
  | [] => s
  | (a, v) :: rest => (s.store a v).dmaWrites rest

/-! The double-byte-data flag (spec/10_state.md R47) -/

/-- The line that opens every instruction that is no data-input external reference: it may not follow
SDBD (spec/45_internal_control.md R299; spec/93_implementation_defined.md U2). -/
def State.unlessDbl (s : State) (k : State → State) : Result :=
  if s.dbl then .refused .doubleByteNotForThisInstruction else .next (k s)

/-! Control transfers -/

/-- The target of a branch, from the program counter after both words: the displacement, or its one's
complement, is added (spec/41_branches.md R200, R218). -/
def branchTarget (pc : Word) (dir : Dir) (disp : Word) : Word :=
  match dir with
  | .forward => pc + disp
  | .backward => pc + ~~~disp

/-- A branch that is taken when `taken` holds (spec/41_branches.md R200). -/
def State.branchIf (s : State) (taken : Bool) (dir : Dir) (disp : Word) : State :=
  if taken then s.setPc (branchTarget s.pc dir disp) else s

/-- The pin EBCI for selector `e` (spec/41_branches.md R219): what the sample states, else a free
value (log 10). -/
def State.condition (s : State) (e : BitVec 4) : Bool :=
  match s.pins.conditions with
  | some levels => levels.getLsbD e.toNat
  | none => Config.ebci s.oracle e

/-- A jump: the return address to the link register, then INTFF as bits DE say, then the program
counter (spec/46_jump.md R320). -/
def State.jump (s : State) (link : Option Reg) (intff : Option Bool) (address : Word) : State :=
  let s := match link with
    | some r => s.setReg r s.pc
    | none => s
  let s := match intff with
    | some b => s.setIntff b
    | none => s
  s.setPc address

/-! Interrupts (spec/60_exceptions.md) -/

/-- INTR* is low, or INTRM* is low and INTFF is 1 (R344). -/
def State.interruptRequested (s : State) : Bool := s.pins.intr || (s.pins.intrm && s.intff)

/-- The interrupt sequence (R346): INTAK with the stack pointer, the program counter written where it
points (DW, DWS: INTAK has loaded the address register), the stack pointer stepped, the vector from the bus into the program counter. The status bits,
INTFF and every other register keep their values. The fetch follows, so the boundary is closed (R348). -/
def State.takeInterrupt (s : State) : State :=
  let sp := s.reg .r6
  let s := s.emit (.intak sp)
  let s := s.strobe sp s.pc
  let s := s.setReg .r6 (sp + 1)
  let s := (s.emit (.iab s.pins.vector)).setPc s.pins.vector
  { s with boundaryOpen := false }

/-- The return from an interrupt, which is `PULR PC` (R349): the stack pointer steps back and the word
it then points to becomes the program counter. Nothing else is restored. -/
def State.returnFromInterrupt (s : State) : State :=
  let sp := s.reg .r6 - 1
  let s := s.setReg .r6 sp
  let (v, s) := s.busRead sp
  s.setPc v

/-! Initialization (spec/70_reset_and_hazards.md) -/

/-- A sample with MSYNC* low (R390, R391): nothing executes, the bus has NACT, the interrupt system is disabled,
and the other signals are inactive, HALT (`run`) and BUSAK* (`busReleased`) among them. What else the CPU holds is
abandoned when MSYNC* goes high (log 11). -/
def State.holdInactive (s : State) : State :=
  { s with intff := false, run := .running, busReleased := false, syncLow := true, events := .nact :: s.events }

/-- The initialization sequence, when MSYNC* has gone high (R391 to R394, R396): one IAB, by which the program
counter comes from the bus, R0 to R6 and the status bits arbitrary, INTFF and D cleared, the CPU running and
owning the bus. Memory keeps its contents. -/
def State.initialize (s : State) : State :=
  let n := s.oracle
  { s with
    regs :=
      { r0 := Config.initRegister n 0
        r1 := Config.initRegister n 1
        r2 := Config.initRegister n 2
        r3 := Config.initRegister n 3
        r4 := Config.initRegister n 4
        r5 := Config.initRegister n 5
        r6 := Config.initRegister n 6
        r7 := s.plat.resetVector }
    status :=
      { s := Config.initStatus n 0
        z := Config.initStatus n 1
        c := Config.initStatus n 2
        ov := Config.initStatus n 3 }
    intff := false
    dbl := false
    run := .running
    haltPending := false
    busReleased := false
    stopPending := false
    boundaryOpen := false
    syncLow := false
    oracle := n + 1
    events := .iab s.plat.resetVector :: s.events }

end Sys2Proof.Machine
end

