-- ==== Sys2Proof/Machine/Timing.lean ====
section
/-! DEFINITION. The cycle counts of spec/70_reset_and_hazards.md R400, without wait cycles, and the micro
states of an instruction in which the bus is idle. They go to the cycle counter and the event log, which nothing
reads (log 17, log 18). -/

namespace Sys2Proof.Machine

/-- 7 cycles, or 9 when the branch is taken (spec/41_branches.md R220). -/
def branchCycles (taken : Bool) : Nat := if taken then 9 else 7

/-- 6 cycles for one position, 8 for two (spec/43_register_shift.md R251). -/
def shiftCycles : Count → Nat
  | .one => 6
  | .two => 8

/-- 6 cycles, or 7 when the destination is R6 or R7 (spec/42_register_register.md R231, R241). -/
def moveCycles (d : Reg) : Nat := if d = .r6 ∨ d = .r7 then 7 else 6

/-- Indirect input: 8 cycles, 11 through R6, 10 after SDBD (spec/40_external_reference.md R176). -/
def indirectCycles (m : Reg) (dbl : Bool) : Nat := if dbl then 10 else if m = .r6 then 11 else 8

/-- Immediate input: 8 cycles, and 10 after SDBD, whose own 4 make the 14 of the table
(spec/40_external_reference.md R176). -/
def immediateCycles (dbl : Bool) : Nat := if dbl then 10 else 8

end Sys2Proof.Machine

namespace Sys2Proof

open Machine

/-- The cycles of an instruction that runs in the state `s`, after its fetch. -/
def Instr.cycles (i : Instr) (s : State) : Nat :=
  match i with
  | .hlt | .sdbd | .eis | .dis | .tci | .clrc | .setc => 4
  | .j _ | .je _ | .jd _ | .jsr _ _ | .jsre _ _ | .jsrd _ _ | .undefJumpDe11 _ _ => 12
  | .incr _ | .decr _ | .comr _ | .negr _ | .adcr _ | .gswd _ | .nop _ | .sin _ | .rswd _ => 6
  | .swap _ n | .sll _ n | .rlc _ n | .sllc _ n => shiftCycles n
  | .slr _ n | .sar _ n | .rrc _ n | .sarc _ n => shiftCycles n
  | .movr _ d | .tstr d => moveCycles d
  | .jr _ => 7
  | .addr _ _ | .subr _ _ | .cmpr _ _ | .andr _ _ | .xorr _ _ | .clrr _ => 6
  | .b _ _ => branchCycles true
  | .bc _ _ | .blgt _ _ => branchCycles s.status.c
  | .bov _ _ => branchCycles s.status.ov
  | .bpl _ _ => branchCycles (!s.status.s)
  | .bze _ _ | .beq _ _ => branchCycles s.status.z
  | .blt _ _ => branchCycles s.status.less
  | .ble _ _ => branchCycles s.status.lessOrEqual
  | .busc _ _ => branchCycles s.status.unequalSignCarry
  | .nopp _ _ => branchCycles false
  | .bnc _ _ | .bllt _ _ => branchCycles (!s.status.c)
  | .bnov _ _ => branchCycles (!s.status.ov)
  | .bmi _ _ => branchCycles s.status.s
  | .bnze _ _ | .bneq _ _ => branchCycles (!s.status.z)
  | .bge _ _ => branchCycles (!s.status.less)
  | .bgt _ _ => branchCycles (!s.status.lessOrEqual)
  | .besc _ _ => branchCycles (!s.status.unequalSignCarry)
  | .bext _ _ e => branchCycles (s.condition e)
  | .mvo _ _ => 11
  | .mvoi _ | .mvoAt _ _ | .pshr _ => 9
  | .mvi _ _ | .add _ _ | .sub _ _ | .cmp _ _ | .and _ _ | .xor _ _ => 10
  | .mvii _ _ | .addi _ _ | .subi _ _ | .cmpi _ _ | .andi _ _ | .xori _ _ => immediateCycles s.dbl
  | .mviAt m _ | .addAt m _ | .subAt m _ | .cmpAt m _ | .andAt m _ | .xorAt m _ => indirectCycles m s.dbl
  | .pulr _ => indirectCycles .r6 s.dbl

/-- The micro states that the fetch and the accesses of an instruction take: 4 for the first word (BAR, NACT, DTB,
NACT), 3 for each further word or operand read (BAR, NACT, DTB), 4 for a direct address (BAR, NACT, ADAR, NACT), then
1 for its read (DTB) or 3 for its write (DW, DWS, NACT), 5 for a write through a pointer (BAR, NACT, DW, DWS, NACT)
(spec/20_memory.md R74, R82; spec/70_reset_and_hazards.md R400; log 17). -/
def Instr.accessStates (i : Instr) (dbl : Bool) : Nat :=
  match i with
  | .hlt | .sdbd | .eis | .dis | .tci | .clrc | .setc => 4
  | .j _ | .je _ | .jd _ | .jsr _ _ | .jsre _ _ | .jsrd _ _ | .undefJumpDe11 _ _ => 10
  | .incr _ | .decr _ | .comr _ | .negr _ | .adcr _ | .gswd _ | .nop _ | .sin _ | .rswd _ => 4
  | .swap _ _ | .sll _ _ | .rlc _ _ | .sllc _ _ | .slr _ _ | .sar _ _ | .rrc _ _ | .sarc _ _ => 4
  | .movr _ _ | .addr _ _ | .subr _ _ | .cmpr _ _ | .andr _ _ | .xorr _ _ => 4
  | .tstr _ | .jr _ | .clrr _ => 4
  | .b _ _ | .bc _ _ | .bov _ _ | .bpl _ _ | .bze _ _ | .blt _ _ | .ble _ _ | .busc _ _ => 7
  | .nopp _ _ | .bnc _ _ | .bnov _ _ | .bmi _ _ | .bnze _ _ | .bge _ _ | .bgt _ _ | .besc _ _ => 7
  | .blgt _ _ | .bllt _ _ | .beq _ _ | .bneq _ _ | .bext _ _ _ => 7
  | .mvo _ _ => 11
  | .mvoi _ | .mvoAt _ _ | .pshr _ => 9
  | .mvi _ _ | .add _ _ | .sub _ _ | .cmp _ _ | .and _ _ | .xor _ _ => 9
  | .mvii _ _ | .addi _ _ | .subi _ _ | .cmpi _ _ | .andi _ _ | .xori _ _ => if dbl then 10 else 7
  | .mviAt _ _ | .addAt _ _ | .subAt _ _ | .cmpAt _ _ | .andAt _ _ | .xorAt _ _ => if dbl then 10 else 7
  | .pulr _ => if dbl then 10 else 7

/-- The micro states of NACT that are left of the cycles of an instruction when its accesses are done: two in the
execute sequence of a register instruction, two or four in that of a shift, one after the DTB of an input
(spec/70_reset_and_hazards.md R400; spec/42_register_register.md R241; log 17). -/
def Instr.idleStates (i : Instr) (s : State) : Nat := i.cycles s - i.accessStates s.dbl

end Sys2Proof
end

