-- ==== Sys2Proof/Machine/Boundary.lean ====
section
/-! DEFINITION. What happens between instructions: the pins are sampled, the stopped CPU waits, requests are
examined at an interruptable boundary in the order of spec/60_exceptions.md R354, and an instruction's end
makes the boundary that follows it (R351, R352, R360). -/

namespace Sys2Proof

open Machine

/-- Whether requests are examined after the instruction (spec/60_exceptions.md R352, R353). -/
def Instr.interruptable (i : Instr) (p : Platform) : Bool :=
  match i with
  | .swap _ _ | .sll _ _ | .rlc _ _ | .sllc _ _ | .slr _ _ | .sar _ _ | .rrc _ _ | .sarc _ _ => false
  | .eis | .dis | .tci | .clrc | .setc | .sdbd => false
  | .hlt => !p.hltAfterNext
  | .mvo _ _ | .mvoi _ | .mvoAt _ _ | .pshr _ => p.mvoInterruptible
  | .j _ | .je _ | .jd _ | .jsr _ _ | .jsre _ _ | .jsrd _ _ | .undefJumpDe11 _ _ => true
  | .incr _ | .decr _ | .comr _ | .negr _ | .adcr _ | .gswd _ | .nop _ | .sin _ | .rswd _ => true
  | .movr _ _ | .addr _ _ | .subr _ _ | .cmpr _ _ | .andr _ _ | .xorr _ _ => true
  | .tstr _ | .jr _ | .clrr _ => true
  | .b _ _ | .bc _ _ | .bov _ _ | .bpl _ _ | .bze _ _ | .blt _ _ | .ble _ _ | .busc _ _ => true
  | .nopp _ _ | .bnc _ _ | .bnov _ _ | .bmi _ _ | .bnze _ _ | .bge _ _ | .bgt _ _ | .besc _ _ => true
  | .blgt _ _ | .bllt _ _ | .beq _ _ | .bneq _ _ | .bext _ _ _ => true
  | .mvi _ _ | .mvii _ _ | .mviAt _ _ | .pulr _ => true
  | .add _ _ | .addi _ _ | .addAt _ _ | .sub _ _ | .subi _ _ | .subAt _ _ => true
  | .cmp _ _ | .cmpi _ _ | .cmpAt _ _ | .and _ _ | .andi _ _ | .andAt _ _ => true
  | .xor _ _ | .xori _ _ | .xorAt _ _ => true

end Sys2Proof

namespace Sys2Proof.Machine

/-- Take the next sample of the pins; with none left they are quiet. A stop edge that comes while the
CPU runs is recorded (spec/60_exceptions.md R343, R361; log 9, log 14). -/
def State.sample (s : State) : State :=
  let p := s.env.headD .quiet
  { s with
    pins := p
    env := s.env.tail
    stopPending := s.stopPending || (s.run == .running && p.stpst) }

/-- The stop: the registers, flags and memory keep their values (spec/60_exceptions.md R354, R362). -/
def State.stop (s : State) : State := { s with run := .stopped, boundaryOpen := false }

/-- The stopped CPU, which does not use the bus (spec/20_memory.md R73): a stop edge returns it to the run mode,
and the fetch at R7 follows; nothing else is answered (spec/60_exceptions.md R361, R362). -/
def State.whileStopped (s : State) : State :=
  (if s.pins.stpst then { s with run := .running, boundaryOpen := false } else s).emit .nact

/-- The bus is released, or stays so: the CPU issues NACT, and other masters make the writes of the sample
(spec/60_exceptions.md R355; spec/20_memory.md R84). -/
def State.grantBus (s : State) : State :=
  (({ s with busReleased := true }).emit .nact).dmaWrites s.pins.dma

/-- What comes of attending to the pins: something was done instead of an instruction, or the
instruction at R7 is to be fetched. -/
inductive Attention where
  | acted (s : State)
  | fetch (s : State)
  deriving DecidableEq, Repr

/-- The examination at an interruptable boundary, in the order of R354. A CPU that stops does not use the bus. -/
def State.examine (s : State) : Attention :=
  if s.haltPending then .acted { s.stop.emit .nact with haltPending := false }
  else if s.stopPending then .acted { s.stop.emit .nact with stopPending := false }
  else if s.pins.busrq then .acted s.grantBus
  else if s.interruptRequested then .acted s.takeInterrupt
  else .fetch s

/-- Sample the pins and attend to them: MSYNC* overrides everything, and the initialization sequence comes when
it has gone high; the stopped CPU waits, a released bus stays released while BUSRQ* is low, and the requests are examined where the boundary is open
(spec/60_exceptions.md R351, R354, R355, R362; spec/70_reset_and_hazards.md R390). -/
def State.attend (s : State) : Attention :=
  let s := s.sample
  if s.pins.msync then .acted s.holdInactive
  else if s.syncLow then .acted s.initialize
  else if s.run = .stopped then .acted s.whileStopped
  else if s.busReleased && s.pins.busrq then .acted s.grantBus
  else
    let s := { s with busReleased := false }
    if s.boundaryOpen then s.examine else .fetch s

/-- The end of an instruction. `before` is the state after its fetch, `after` the state its meaning
gives. The micro states its accesses leave of its cycles have NACT (spec/70_reset_and_hazards.md R400; log 17). If
a halt was pending the CPU stops, whatever the instruction (spec/60_exceptions.md R360); otherwise the boundary is
open after an interruptable instruction, unless that instruction stopped the CPU. -/
def State.finish (before : State) (i : Instr) (after : State) : State :=
  let after := { after.idle (i.idleStates before) with cycles := after.cycles + i.cycles before }
  if before.haltPending then { after.stop with haltPending := false }
  else { after with boundaryOpen := i.interruptable before.plat && after.run == .running }

end Sys2Proof.Machine
end

