-- ==== Sys2Proof/Machine/Branch.lean ====
section
/-! DEFINITION. The conditional branches (spec/41_branches.md R200 to R220). The program counter they start from is the
address after both words. -/

namespace Sys2Proof.Machine

/-- B (R201). -/
def execB (dir : Dir) (disp : Word) (s : State) : Result :=
  s.unlessDbl fun s => s.branchIf true dir disp

/-- BC (R202). -/
def execBc (dir : Dir) (disp : Word) (s : State) : Result :=
  s.unlessDbl fun s => s.branchIf s.status.c dir disp

/-- BOV (R203). -/
def execBov (dir : Dir) (disp : Word) (s : State) : Result :=
  s.unlessDbl fun s => s.branchIf s.status.ov dir disp

/-- BPL (R204). -/
def execBpl (dir : Dir) (disp : Word) (s : State) : Result :=
  s.unlessDbl fun s => s.branchIf (!s.status.s) dir disp

/-- BZE (R205). -/
def execBze (dir : Dir) (disp : Word) (s : State) : Result :=
  s.unlessDbl fun s => s.branchIf s.status.z dir disp

/-- BLT (R206). -/
def execBlt (dir : Dir) (disp : Word) (s : State) : Result :=
  s.unlessDbl fun s => s.branchIf s.status.less dir disp

/-- BLE (R207). -/
def execBle (dir : Dir) (disp : Word) (s : State) : Result :=
  s.unlessDbl fun s => s.branchIf s.status.lessOrEqual dir disp

/-- BUSC (R208). -/
def execBusc (dir : Dir) (disp : Word) (s : State) : Result :=
  s.unlessDbl fun s => s.branchIf s.status.unequalSignCarry dir disp

/-- NOPP (R209). -/
def execNopp (dir : Dir) (disp : Word) (s : State) : Result :=
  s.unlessDbl fun s => s.branchIf false dir disp

/-- BNC (R210). -/
def execBnc (dir : Dir) (disp : Word) (s : State) : Result :=
  s.unlessDbl fun s => s.branchIf (!s.status.c) dir disp

/-- BNOV (R211). -/
def execBnov (dir : Dir) (disp : Word) (s : State) : Result :=
  s.unlessDbl fun s => s.branchIf (!s.status.ov) dir disp

/-- BMI (R212). -/
def execBmi (dir : Dir) (disp : Word) (s : State) : Result :=
  s.unlessDbl fun s => s.branchIf s.status.s dir disp

/-- BNZE (R213). -/
def execBnze (dir : Dir) (disp : Word) (s : State) : Result :=
  s.unlessDbl fun s => s.branchIf (!s.status.z) dir disp

/-- BGE (R214). -/
def execBge (dir : Dir) (disp : Word) (s : State) : Result :=
  s.unlessDbl fun s => s.branchIf (!s.status.less) dir disp

/-- BGT (R215). -/
def execBgt (dir : Dir) (disp : Word) (s : State) : Result :=
  s.unlessDbl fun s => s.branchIf (!s.status.lessOrEqual) dir disp

/-- BESC (R216). -/
def execBesc (dir : Dir) (disp : Word) (s : State) : Result :=
  s.unlessDbl fun s => s.branchIf (!s.status.unequalSignCarry) dir disp

/-- BEXT (R219): the selector is on EBCA, the answer comes back on EBCI, one consultation. -/
def execBext (dir : Dir) (disp : Word) (e : BitVec 4) (s : State) : Result :=
  s.unlessDbl fun s =>
    (((s.branchIf (s.condition e) dir disp).emit (.select e)).consult)

/-- BLGT (R202, second name of BC). -/
def execBlgt (dir : Dir) (disp : Word) (s : State) : Result :=
  s.unlessDbl fun s => s.branchIf s.status.c dir disp

/-- BLLT (R210, second name of BNC). -/
def execBllt (dir : Dir) (disp : Word) (s : State) : Result :=
  s.unlessDbl fun s => s.branchIf (!s.status.c) dir disp

/-- BEQ (R205, second name of BZE). -/
def execBeq (dir : Dir) (disp : Word) (s : State) : Result :=
  s.unlessDbl fun s => s.branchIf s.status.z dir disp

/-- BNEQ (R213, second name of BNZE). -/
def execBneq (dir : Dir) (disp : Word) (s : State) : Result :=
  s.unlessDbl fun s => s.branchIf (!s.status.z) dir disp

end Sys2Proof.Machine
end

