-- ==== Sys2Proof/Machine/Control.lean ====
section
/-! DEFINITION. The internal control instructions (spec/45_internal_control.md R299 to R307). -/

namespace Sys2Proof.Machine

/-- HLT (R300): the stop is due after the next instruction, or comes at once, by HLT_AFTER_NEXT. -/
def execHlt (s : State) : Result :=
  s.unlessDbl fun s =>
    if s.plat.hltAfterNext then { s with haltPending := true } else { s with run := .stopped }

/-- SDBD (R301): sets D; it may not follow SDBD. -/
def execSdbd (s : State) : Result := s.unlessDbl fun s => s.setDbl true

/-- EIS (R302). -/
def execEis (s : State) : Result := s.unlessDbl fun s => s.setIntff true

/-- DIS (R303). -/
def execDis (s : State) : Result := s.unlessDbl fun s => s.setIntff false

/-- TCI (R304): a pulse on the TCI pin, no CPU state. -/
def execTci (s : State) : Result := s.unlessDbl fun s => s.emit .tciPulse

/-- CLRC (R305). -/
def execClrc (s : State) : Result := s.unlessDbl fun s => s.setStatus { s.status with c := false }

/-- SETC (R306). -/
def execSetc (s : State) : Result := s.unlessDbl fun s => s.setStatus { s.status with c := true }

end Sys2Proof.Machine
end

