-- ==== Sys2Proof/Machine/Arith.lean ====
section
/-! DEFINITION. The operations on a register and a value that the register to register and the
external reference instructions share (spec/42_register_register.md R231 to R236;
spec/40_external_reference.md R167 to R175). In each `v` is the operand named first. -/

namespace Sys2Proof.Machine

/-- Write the result of an addition or subtraction and all four status bits (spec/10_state.md R41, R42). -/
def State.setSum (s : State) (d : Reg) (t : Sum17) : State := (s.setReg d t.sum).setStatus (.ofSum t)

/-- Write the result of a logical operation, and S and Z (spec/40_external_reference.md R174, R175). -/
def State.setLogic (s : State) (d : Reg) (v : Word) : State := (s.setReg d v).setSZ v

/-- Move in: write the register, no status bit (spec/40_external_reference.md R167). -/
def State.load (d : Reg) (v : Word) (s : State) : State := s.setReg d v

/-- Add to a register (R171, R232). -/
def State.addTo (d : Reg) (v : Word) (s : State) : State := s.setSum d (add17 (s.reg d) v false)

/-- Subtract from a register, the minuend (R172, R233). -/
def State.subFrom (d : Reg) (v : Word) (s : State) : State := s.setSum d (sub17 (s.reg d) v)

/-- Compare: the subtraction without the register write (R173, R234). -/
def State.compareWith (d : Reg) (v : Word) (s : State) : State := s.setStatus (.ofSum (sub17 (s.reg d) v))

/-- Logical AND into a register (R174, R235). -/
def State.andInto (d : Reg) (v : Word) (s : State) : State := s.setLogic d (s.reg d &&& v)

/-- Exclusive OR into a register (R175, R236). -/
def State.xorInto (d : Reg) (v : Word) (s : State) : State := s.setLogic d (s.reg d ^^^ v)

end Sys2Proof.Machine
end

