-- ==== Sys2Proof/WellFormed.lean ====
section
/-! DEFINITION. Which instructions have an encoding: the operand registers that a narrower field of the
instruction word can name (spec/30_encoding.md R113; spec/10_state.md R31, R32). -/

namespace Sys2Proof

/-- The registers an MMM field of 001 to 110 names as an address pointer (spec/30_encoding.md R114). -/
def Reg.isPointer : Reg → Bool
  | .r1 | .r2 | .r3 | .r4 | .r5 | .r6 => true
  | .r0 | .r7 => false

/-- The registers a 2-bit RR or DD field names: shifts and GSWD reach R0 to R3 only
(spec/10_state.md R32). -/
def Reg.isLow : Reg → Bool
  | .r0 | .r1 | .r2 | .r3 => true
  | .r4 | .r5 | .r6 | .r7 => false

/-- The registers a BB field other than 11 names: 4 + BB (spec/46_jump.md R322). -/
def Reg.isLink : Reg → Bool
  | .r4 | .r5 | .r6 => true
  | .r0 | .r1 | .r2 | .r3 | .r7 => false

/-- The operands fit the fields of the instruction's encoding. Every other combination of operands
is an encoding the machine has, the refused ones included (spec/30_encoding.md R125). -/
def Instr.wf : Instr → Bool
  | .jsr link _ | .jsre link _ | .jsrd link _ => link.isLink
  | .gswd d => d.isLow
  | .swap r _ | .sll r _ | .rlc r _ | .sllc r _ | .slr r _ | .sar r _ | .rrc r _ | .sarc r _ => r.isLow
  | .mvoAt _ m => m.isPointer
  | .mviAt m _ | .addAt m _ | .subAt m _ | .cmpAt m _ | .andAt m _ | .xorAt m _ => m.isPointer
  | .hlt | .sdbd | .eis | .dis | .tci | .clrc | .setc => true
  | .j _ | .je _ | .jd _ | .undefJumpDe11 _ _ => true
  | .incr _ | .decr _ | .comr _ | .negr _ | .adcr _ | .rswd _ | .nop _ | .sin _ => true
  | .movr _ _ | .addr _ _ | .subr _ _ | .cmpr _ _ | .andr _ _ | .xorr _ _ => true
  | .b _ _ | .bc _ _ | .bov _ _ | .bpl _ _ | .bze _ _ | .blt _ _ | .ble _ _ | .busc _ _ => true
  | .nopp _ _ | .bnc _ _ | .bnov _ _ | .bmi _ _ | .bnze _ _ | .bge _ _ | .bgt _ _ | .besc _ _ => true
  | .bext _ _ _ => true
  | .mvo _ _ | .mvoi _ => true
  | .mvi _ _ | .mvii _ _ | .add _ _ | .addi _ _ | .sub _ _ | .subi _ _ => true
  | .cmp _ _ | .cmpi _ _ | .and _ _ | .andi _ _ | .xor _ _ | .xori _ _ => true
  | .tstr _ | .jr _ | .clrr _ | .pshr _ | .pulr _ => true
  | .blgt _ _ | .bllt _ _ | .beq _ _ | .bneq _ _ => true

/-- The instruction has an encoding. -/
abbrev Instr.WellFormed (i : Instr) : Prop := i.wf = true

end Sys2Proof
end

