-- ==== Sys2Proof/Decode.lean ====
section
/-! DEFINITION. The decoder and, after it, the encoder, both written from the formats of
spec/30_encoding.md R110 to R123. Decoding is a total function of the double-byte flag and the
instruction's words; only a list of words that ends too early is rejected. -/

namespace Sys2Proof

/-- The field of `len` bits of `w` whose lowest bit is bit `lo` (spec/00_scope.md R10). -/
def bits (w : Word) (lo len : Nat) : BitVec len := w.extractLsb' lo len

/-- The register a 3-bit field names (spec/10_state.md R30). -/
def Reg.ofBits (b : BitVec 3) : Reg :=
  match b.toNat with
  | 0 => .r0
  | 1 => .r1
  | 2 => .r2
  | 3 => .r3
  | 4 => .r4
  | 5 => .r5
  | 6 => .r6
  | _ => .r7

/-- The register a 2-bit RR or DD field names: R0 to R3 (spec/10_state.md R32). -/
def Reg.ofLowBits (b : BitVec 2) : Reg := Reg.ofBits (0#1 ++ b)

/-- The register a BB field other than 11 names: 4 + BB (spec/46_jump.md R322). -/
def Reg.ofLinkBits (b : BitVec 2) : Reg := Reg.ofBits (1#1 ++ b)

/-- The 3-bit number of a register (spec/10_state.md R30). -/
def Reg.num : Reg → BitVec 3
  | .r0 => 0
  | .r1 => 1
  | .r2 => 2
  | .r3 => 3
  | .r4 => 4
  | .r5 => 5
  | .r6 => 6
  | .r7 => 7

/-- Bit S of a branch word: 0 for +, 1 for - (spec/30_encoding.md R115). -/
def Dir.ofBit (b : Bool) : Dir := if b then .backward else .forward

/-- The bit S of a direction. -/
def Dir.bit : Dir → BitVec 1
  | .forward => 0
  | .backward => 1

/-- Bit N of a shift word: 0 one position, 1 two (spec/30_encoding.md R117). -/
def Count.ofBit (b : Bool) : Count := if b then .two else .one

/-- The bit N of a count. -/
def Count.bit : Count → BitVec 1
  | .one => 0
  | .two => 1

/-- The value of two data words after SDBD: the low 8 bits of the first word are the low byte, those
of the second the high byte; the other bits are ignored (spec/40_external_reference.md R158, R160). -/
def doubleByte (first second : Word) : Word := bits second 0 8 ++ bits first 0 8

/-- The immediate operand: the whole second word, or after SDBD the value of two data words
(spec/30_encoding.md R122). -/
def immediate (dbl : Bool) (w2 w3 : Word) : Word := if dbl then doubleByte w2 w3 else w2

/-- The jump address: bits 7..2 of the second word over bits 9..0 of the third
(spec/30_encoding.md R120, R122). -/
def jumpAddress (w2 w3 : Word) : Word := bits w2 2 6 ++ bits w3 0 10

/-- The jump group, told apart by BB = `w2[9:8]` and DE = `w2[1:0]` (spec/46_jump.md R320 to R328). -/
def decodeJump (w2 w3 : Word) : Instr :=
  let bb := bits w2 8 2
  let address := jumpAddress w2 w3
  match (bits w2 0 2).toNat with
  | 0 => if bb = 3 then .j address else .jsr (Reg.ofLinkBits bb) address
  | 1 => if bb = 3 then .je address else .jsre (Reg.ofLinkBits bb) address
  | 2 => if bb = 3 then .jd address else .jsrd (Reg.ofLinkBits bb) address
  | _ => .undefJumpDe11 bb address

/-- Formats `CTRL` and `JUMP`: F1 = 000, told apart by F2 (spec/30_encoding.md R119). -/
def decodeControl (f2 : BitVec 3) (w2 w3 : Word) : Instr :=
  match f2.toNat with
  | 0 => .hlt
  | 1 => .sdbd
  | 2 => .eis
  | 3 => .dis
  | 4 => decodeJump w2 w3
  | 5 => .tci
  | 6 => .clrc
  | _ => .setc

/-- Formats `GSWD` and `NOPSIN`: the register field of operation 110 is split
(spec/30_encoding.md R118). -/
def decodeStatusRead (w1 : Word) : Instr :=
  if w1.getLsbD 2 then
    if w1.getLsbD 1 then .sin (w1.getLsbD 0) else .nop (w1.getLsbD 0)
  else .gswd (Reg.ofLowBits (bits w1 0 2))

/-- Operation field 0000: control, jump and single register (spec/30_encoding.md R118, R119). -/
def decodeSingle (w1 w2 w3 : Word) : Instr :=
  let d := Reg.ofBits (bits w1 0 3)
  match (bits w1 3 3).toNat with
  | 0 => decodeControl (bits w1 0 3) w2 w3
  | 1 => .incr d
  | 2 => .decr d
  | 3 => .comr d
  | 4 => .negr d
  | 5 => .adcr d
  | 6 => decodeStatusRead w1
  | _ => .rswd d

/-- Format `SHIFT`: bits 5..3 are B, L, A (spec/30_encoding.md R117). -/
def decodeShift (w1 : Word) : Instr :=
  let r := Reg.ofLowBits (bits w1 0 2)
  let n := Count.ofBit (w1.getLsbD 2)
  match (bits w1 3 3).toNat with
  | 0 => .swap r n
  | 1 => .sll r n
  | 2 => .rlc r n
  | 3 => .sllc r n
  | 4 => .slr r n
  | 5 => .sar r n
  | 6 => .rrc r n
  | _ => .sarc r n

/-- Format `BRANCH`: bit 5 direction, bit 4 external, bits 3..0 condition (spec/30_encoding.md R115). -/
def decodeBranch (w1 w2 : Word) : Instr :=
  let dir := Dir.ofBit (w1.getLsbD 5)
  if w1.getLsbD 4 then .bext dir w2 (bits w1 0 4)
  else match (bits w1 0 4).toNat with
    | 0 => .b dir w2
    | 1 => .bc dir w2
    | 2 => .bov dir w2
    | 3 => .bpl dir w2
    | 4 => .bze dir w2
    | 5 => .blt dir w2
    | 6 => .ble dir w2
    | 7 => .busc dir w2
    | 8 => .nopp dir w2
    | 9 => .bnc dir w2
    | 10 => .bnov dir w2
    | 11 => .bmi dir w2
    | 12 => .bnze dir w2
    | 13 => .bge dir w2
    | 14 => .bgt dir w2
    | _ => .besc dir w2

/-- MVO by its mode field (spec/30_encoding.md R114). -/
def decodeMoveOut (w1 w2 : Word) : Instr :=
  let s := Reg.ofBits (bits w1 0 3)
  match (bits w1 3 3).toNat with
  | 0 => .mvo s w2
  | 7 => .mvoi s
  | _ => .mvoAt s (Reg.ofBits (bits w1 3 3))

/-- An input operation by its mode field: direct, immediate or indirect (spec/30_encoding.md R114). -/
def decodeInput (direct imm : Word → Reg → Instr) (at' : Reg → Reg → Instr)
    (dbl : Bool) (w1 w2 w3 : Word) : Instr :=
  let d := Reg.ofBits (bits w1 0 3)
  match (bits w1 3 3).toNat with
  | 0 => direct w2 d
  | 7 => imm (immediate dbl w2 w3) d
  | _ => at' (Reg.ofBits (bits w1 3 3)) d

/-- The instruction that starts with the word `w1` and goes on with `w2` and `w3`, when the
double-byte flag is `dbl`. Words beyond the instruction's length are not looked at. Every first word
selects one row (spec/30_encoding.md R123); bits 15..10 of it are ignored (R110). -/
def decode (dbl : Bool) (w1 w2 w3 : Word) : Instr :=
  let s := Reg.ofBits (bits w1 3 3)
  let d := Reg.ofBits (bits w1 0 3)
  match (bits w1 6 4).toNat with
  | 0 => decodeSingle w1 w2 w3
  | 1 => decodeShift w1
  | 2 => .movr s d
  | 3 => .addr s d
  | 4 => .subr s d
  | 5 => .cmpr s d
  | 6 => .andr s d
  | 7 => .xorr s d
  | 8 => decodeBranch w1 w2
  | 9 => decodeMoveOut w1 w2
  | 10 => decodeInput .mvi .mvii .mviAt dbl w1 w2 w3
  | 11 => decodeInput .add .addi .addAt dbl w1 w2 w3
  | 12 => decodeInput .sub .subi .subAt dbl w1 w2 w3
  | 13 => decodeInput .cmp .cmpi .cmpAt dbl w1 w2 w3
  | 14 => decodeInput .and .andi .andAt dbl w1 w2 w3
  | _ => decodeInput .xor .xori .xorAt dbl w1 w2 w3

/-- The length in words of the instruction that starts with `w1`, a function of the first word and
the double-byte flag (spec/30_encoding.md R121). -/
def instructionLength (dbl : Bool) (w1 : Word) : Nat :=
  if bits w1 0 10 = 0b0000000100#10 then 3
  else if bits w1 6 4 = 0b1000#4 then 2
  else if w1.getLsbD 9 && bits w1 3 3 == 0b000#3 then 2
  else if w1.getLsbD 9 && bits w1 3 3 == 0b111#3 then (if dbl then 3 else 2)
  else 1

/-- How many words are read through the program counter before the operation: the whole instruction,
but for MVO in mode 111, whose second word is written and never read
(spec/20_memory.md R82; spec/40_external_reference.md R166). -/
def fetchLength (dbl : Bool) (w1 : Word) : Nat :=
  if bits w1 6 4 = 0b1001#4 ∧ bits w1 3 3 = 0b111#3 then 1 else instructionLength dbl w1

/-- The instruction is an external reference in mode 000: its second word is a direct address
(spec/30_encoding.md R114). -/
def directMode (w1 : Word) : Bool := w1.getLsbD 9 && bits w1 6 4 != 0b1000#4 && bits w1 3 3 == 0b000#3

/-- Why a list of words is no instruction. -/
inductive DecodeReject where
  /-- The list ends before the instruction does. There is no other reason: every first word is an
  instruction (spec/30_encoding.md R123). Safe: the machine always has the next word. -/
  | truncated
  deriving DecidableEq, Repr

/-- The first instruction of a list of words, with the words after it. -/
def decodeWords (dbl : Bool) : List Word → Except DecodeReject (Instr × List Word)
  | [] => .error .truncated
  | w1 :: rest =>
    if rest.length + 1 < instructionLength dbl w1 then .error .truncated
    else .ok (decode dbl w1 (rest.getD 0 0) (rest.getD 1 0), rest.drop (instructionLength dbl w1 - 1))

/-- The three words that the bits of `w` fill, the first word at bits 15..0; bits at and above `nbits`
read as 0. Three words are the longest instruction (spec/00_scope.md R8). -/
def tableWords (nbits w : Nat) : List Word :=
  let v := w % 2 ^ nbits
  [BitVec.ofNat 16 v, BitVec.ofNat 16 (v / 2 ^ 16), BitVec.ofNat 16 (v / 2 ^ 32)]

/-- The instruction the decoder reads from an instruction whose bits are `w` (not after SDBD). -/
def decodeTableWord (nbits w : Nat) : Option Instr :=
  match decodeWords false (tableWords nbits w) with
  | .ok (i, _) => some i
  | .error _ => none

/-- The core instruction whose words a second name stands for; every other instruction is its own
(spec/30_encoding.md R127). -/
def Instr.canonical : Instr → Instr
  | .tstr s => .movr s s
  | .jr s => .movr s .r7
  | .clrr d => .xorr d d
  | .pshr s => .mvoAt s .r6
  | .pulr d => .mviAt .r6 d
  | .blgt dir disp => .bc dir disp
  | .bllt dir disp => .bnc dir disp
  | .beq dir disp => .bze dir disp
  | .bneq dir disp => .bnze dir disp
  | i => i

/-- A first word from its Operation, F1 and F2 fields, with the ignored bits 15..10 zero
(spec/30_encoding.md R112, R126). -/
def firstWord (operation : BitVec 4) (f1 f2 : BitVec 3) : Word := 0#6 ++ operation ++ f1 ++ f2

/-- The words of a shift: Operation 0001, F1 = B L A, F2 = N RR (spec/30_encoding.md R117). -/
def encodeShift (bla : BitVec 3) (r : Reg) (n : Count) : List Word :=
  [firstWord 0b0001 bla (n.bit ++ bits (r.num.zeroExtend 16) 0 2)]

/-- The words of a branch: Operation 1000, S, X, condition, then the displacement
(spec/30_encoding.md R115). -/
def encodeBranch (dir : Dir) (x : BitVec 1) (condition : BitVec 4) (disp : Word) : List Word :=
  [0#6 ++ 0b1000#4 ++ dir.bit ++ x ++ condition, disp]

/-- The words of a jump (spec/30_encoding.md R120). -/
def encodeJump (bb : BitVec 2) (address : Word) (de : BitVec 2) : List Word :=
  [firstWord 0b0000 0b000 0b100, 0#6 ++ bb ++ bits address 10 6 ++ de, 0#6 ++ bits address 0 10]

/-- The BB field of a link register: its number less 4 (spec/46_jump.md R322). -/
def linkBits (link : Reg) : BitVec 2 := bits (link.num.zeroExtend 16) 0 2

/-- The data words of an immediate: the value, or after SDBD its low byte and its high byte
(spec/30_encoding.md R122). -/
def encodeImmediate (dbl : Bool) (imm : Word) : List Word :=
  if dbl then [(bits imm 0 8).zeroExtend 16, (bits imm 8 8).zeroExtend 16] else [imm]

/-- The words of a direct input or output (spec/30_encoding.md R114). -/
def encodeDirect (operation : BitVec 4) (address : Word) (r : Reg) : List Word :=
  [firstWord operation 0b000 r.num, address]

/-- The words of an immediate input (spec/30_encoding.md R114). -/
def encodeInputImmediate (operation : BitVec 4) (dbl : Bool) (imm : Word) (r : Reg) : List Word :=
  firstWord operation 0b111 r.num :: encodeImmediate dbl imm

/-- The word of an indirect input or output (spec/30_encoding.md R114). -/
def encodeIndirect (operation : BitVec 4) (m r : Reg) : List Word := [firstWord operation m.num r.num]

/-- The word of a register to register instruction (spec/30_encoding.md R116). -/
def encodeRegisters (operation : BitVec 4) (s d : Reg) : List Word := [firstWord operation s.num d.num]

/-- The words of a well-formed instruction, with every ignored bit 0, for a program in which the
double-byte flag is `dbl` when the instruction is reached. The words MVOI passes over,
which the machine never reads, are 0 (log 19). -/
def encode (dbl : Bool) : Instr → List Word
  | .hlt => [firstWord 0b0000 0b000 0b000]
  | .sdbd => [firstWord 0b0000 0b000 0b001]
  | .eis => [firstWord 0b0000 0b000 0b010]
  | .dis => [firstWord 0b0000 0b000 0b011]
  | .tci => [firstWord 0b0000 0b000 0b101]
  | .clrc => [firstWord 0b0000 0b000 0b110]
  | .setc => [firstWord 0b0000 0b000 0b111]
  | .j address => encodeJump 0b11 address 0b00
  | .je address => encodeJump 0b11 address 0b01
  | .jd address => encodeJump 0b11 address 0b10
  | .jsr link address => encodeJump (linkBits link) address 0b00
  | .jsre link address => encodeJump (linkBits link) address 0b01
  | .jsrd link address => encodeJump (linkBits link) address 0b10
  | .undefJumpDe11 bb address => encodeJump bb address 0b11
  | .incr d => [firstWord 0b0000 0b001 d.num]
  | .decr d => [firstWord 0b0000 0b010 d.num]
  | .comr d => [firstWord 0b0000 0b011 d.num]
  | .negr d => [firstWord 0b0000 0b100 d.num]
  | .adcr d => [firstWord 0b0000 0b101 d.num]
  | .rswd s => [firstWord 0b0000 0b111 s.num]
  | .gswd d => [firstWord 0b0000 0b110 (0#1 ++ bits (d.num.zeroExtend 16) 0 2)]
  | .nop n => [firstWord 0b0000 0b110 (0b10#2 ++ BitVec.ofBool n)]
  | .sin n => [firstWord 0b0000 0b110 (0b11#2 ++ BitVec.ofBool n)]
  | .swap r n => encodeShift 0b000 r n
  | .sll r n => encodeShift 0b001 r n
  | .rlc r n => encodeShift 0b010 r n
  | .sllc r n => encodeShift 0b011 r n
  | .slr r n => encodeShift 0b100 r n
  | .sar r n => encodeShift 0b101 r n
  | .rrc r n => encodeShift 0b110 r n
  | .sarc r n => encodeShift 0b111 r n
  | .movr s d => encodeRegisters 0b0010 s d
  | .addr s d => encodeRegisters 0b0011 s d
  | .subr s d => encodeRegisters 0b0100 s d
  | .cmpr s d => encodeRegisters 0b0101 s d
  | .andr s d => encodeRegisters 0b0110 s d
  | .xorr s d => encodeRegisters 0b0111 s d
  | .b dir disp => encodeBranch dir 0 0b0000 disp
  | .bc dir disp => encodeBranch dir 0 0b0001 disp
  | .bov dir disp => encodeBranch dir 0 0b0010 disp
  | .bpl dir disp => encodeBranch dir 0 0b0011 disp
  | .bze dir disp => encodeBranch dir 0 0b0100 disp
  | .blt dir disp => encodeBranch dir 0 0b0101 disp
  | .ble dir disp => encodeBranch dir 0 0b0110 disp
  | .busc dir disp => encodeBranch dir 0 0b0111 disp
  | .nopp dir disp => encodeBranch dir 0 0b1000 disp
  | .bnc dir disp => encodeBranch dir 0 0b1001 disp
  | .bnov dir disp => encodeBranch dir 0 0b1010 disp
  | .bmi dir disp => encodeBranch dir 0 0b1011 disp
  | .bnze dir disp => encodeBranch dir 0 0b1100 disp
  | .bge dir disp => encodeBranch dir 0 0b1101 disp
  | .bgt dir disp => encodeBranch dir 0 0b1110 disp
  | .besc dir disp => encodeBranch dir 0 0b1111 disp
  | .bext dir disp e => encodeBranch dir 1 e disp
  | .mvo s address => encodeDirect 0b1001 address s
  | .mvoi s => firstWord 0b1001 0b111 s.num :: (if dbl then [0, 0] else [0])
  | .mvoAt s m => encodeIndirect 0b1001 m s
  | .mvi address d => encodeDirect 0b1010 address d
  | .mvii imm d => encodeInputImmediate 0b1010 dbl imm d
  | .mviAt m d => encodeIndirect 0b1010 m d
  | .add address d => encodeDirect 0b1011 address d
  | .addi imm d => encodeInputImmediate 0b1011 dbl imm d
  | .addAt m d => encodeIndirect 0b1011 m d
  | .sub address d => encodeDirect 0b1100 address d
  | .subi imm d => encodeInputImmediate 0b1100 dbl imm d
  | .subAt m d => encodeIndirect 0b1100 m d
  | .cmp address s => encodeDirect 0b1101 address s
  | .cmpi imm s => encodeInputImmediate 0b1101 dbl imm s
  | .cmpAt m s => encodeIndirect 0b1101 m s
  | .and address d => encodeDirect 0b1110 address d
  | .andi imm d => encodeInputImmediate 0b1110 dbl imm d
  | .andAt m d => encodeIndirect 0b1110 m d
  | .xor address d => encodeDirect 0b1111 address d
  | .xori imm d => encodeInputImmediate 0b1111 dbl imm d
  | .xorAt m d => encodeIndirect 0b1111 m d
  | .tstr s => encodeRegisters 0b0010 s s
  | .jr s => encodeRegisters 0b0010 s .r7
  | .clrr d => encodeRegisters 0b0111 d d
  | .pshr s => encodeIndirect 0b1001 .r6 s
  | .pulr d => encodeIndirect 0b1010 .r6 d
  | .blgt dir disp => encodeBranch dir 0 0b0001 disp
  | .bllt dir disp => encodeBranch dir 0 0b1001 disp
  | .beq dir disp => encodeBranch dir 0 0b0100 disp
  | .bneq dir disp => encodeBranch dir 0 0b1100 disp

end Sys2Proof
end

