-- ==== Sys2Proof/Machine/Operands.lean ====
section
/-! DEFINITION. The operand forms of the external reference instructions: the addressing modes with
their register updates, the single and double byte operands, and the forms the spec refuses
(spec/40_external_reference.md R150 to R163). -/

namespace Sys2Proof.Machine

/-- The pointer registers that a mode updates: R4 and R5 (modes 100, 101), R6 (110) and R7 (111)
(R154 to R156). -/
def autoUpdated : Reg → Bool
  | .r4 | .r5 | .r6 | .r7 => true
  | .r0 | .r1 | .r2 | .r3 => false

/-- The address of an output through a pointer, and the state after its update: R4 to R7 are
incremented after use (R153 to R156, the MVO column of R156). -/
def State.outputAddress (s : State) (m : Reg) : Word × State :=
  if autoUpdated m then (s.reg m, s.setReg m (s.reg m + 1)) else (s.reg m, s)

/-- The address of an input through a pointer, and the state after its update: R6 is decremented
before use, R4, R5 and R7 incremented after it (R153 to R156). -/
def State.inputAddress (s : State) (m : Reg) : Word × State :=
  if m = .r6 then (s.reg .r6 - 1, s.setReg .r6 (s.reg .r6 - 1))
  else if autoUpdated m then (s.reg m, s.setReg m (s.reg m + 1))
  else (s.reg m, s)

/-- The single operand through a pointer (R167 with `dbl == 0`). -/
def State.pointerOperand (s : State) (m : Reg) : Word × State :=
  let (ea, s) := s.inputAddress m
  s.busRead ea

/-- The double byte operand through a pointer: two reads, at successive addresses where the mode
increments the pointer and at the same address where it does not (R158, R159). -/
def State.doubleOperand (s : State) (m : Reg) : Word × State :=
  let (first, s) := s.pointerOperand m
  let (second, s) := s.pointerOperand m
  (doubleByte first second, s)

/-- An input instruction in mode 000: the word at a direct address, which the fetch has put into the address
register. Not supported after SDBD (R152,
R161). -/
def State.inputDirect (s : State) (address : Word) (k : Word → State → State) : Result :=
  if s.dbl then .refused .doubleByteModeNotSupported
  else
    let (v, s) := s.directRead address
    .next (k v s)

/-- An input instruction in mode 111: the operand has been read with the instruction, one word or two;
the flag D is consumed (R151, R155, R160). -/
def State.inputImmediate (s : State) (imm : Word) (k : Word → State → State) : Result :=
  .next (k imm (s.setDbl false))

/-- An input instruction in modes 001 to 110: the flag D is consumed and selects a single or a double
byte operand, which the stack mode does not support (R151, R153 to R161). -/
def State.inputIndirect (s : State) (m : Reg) (k : Word → State → State) : Result :=
  if s.dbl then
    if m = .r6 then .refused .doubleByteModeNotSupported
    else
      let (v, s) := (s.setDbl false).doubleOperand m
      .next (k v s)
  else
    let (v, s) := s.pointerOperand m
    .next (k v s)

/-- MVO through a pointer, in modes 001 to 111: refused after SDBD, and refused when it stores the
pointer that the mode updates; the register is read after the update (R162, R163). -/
def State.outputIndirect (s : State) (src m : Reg) : Result :=
  if s.dbl then .refused .doubleByteNotForThisInstruction
  else if src = m ∧ autoUpdated m then .refused .moveOutOfOwnPointer
  else
    let (ea, s) := s.outputAddress m
    .next (s.busWrite ea (s.reg src))

end Sys2Proof.Machine
end

