-- ==== Sys2Proof/Machine/External.lean ====
section
/-! DEFINITION. The external reference data access instructions (spec/40_external_reference.md R150 to R177). -/

namespace Sys2Proof.Machine

/-- MVO (R165): the register to a direct address, which the fetch has put into the address register; refused
after SDBD (R161). -/
def execMvo (src : Reg) (address : Word) (s : State) : Result :=
  s.unlessDbl fun s => s.directWrite address (s.reg src)

/-- MVOI (R166): mode 111, an output through R7, so the second word of the instruction is written. -/
def execMvoi (src : Reg) (s : State) : Result := s.outputIndirect src .r7

/-- MVO@ (R163). -/
def execMvoAt (src m : Reg) (s : State) : Result := s.outputIndirect src m

/-- MVI (R168), direct. -/
def execMvi (address : Word) (d : Reg) (s : State) : Result := s.inputDirect address (.load d)

/-- MVII (R170), immediate. -/
def execMvii (imm : Word) (d : Reg) (s : State) : Result := s.inputImmediate imm (.load d)

/-- MVI@ (R167, R168), indirect. -/
def execMviAt (m d : Reg) (s : State) : Result := s.inputIndirect m (.load d)

/-- ADD (R171), direct. -/
def execAdd (address : Word) (d : Reg) (s : State) : Result := s.inputDirect address (.addTo d)

/-- ADDI (R171), immediate. -/
def execAddi (imm : Word) (d : Reg) (s : State) : Result := s.inputImmediate imm (.addTo d)

/-- ADD@ (R171), indirect. -/
def execAddAt (m d : Reg) (s : State) : Result := s.inputIndirect m (.addTo d)

/-- SUB (R172), direct. -/
def execSub (address : Word) (d : Reg) (s : State) : Result := s.inputDirect address (.subFrom d)

/-- SUBI (R172), immediate. -/
def execSubi (imm : Word) (d : Reg) (s : State) : Result := s.inputImmediate imm (.subFrom d)

/-- SUB@ (R172), indirect. -/
def execSubAt (m d : Reg) (s : State) : Result := s.inputIndirect m (.subFrom d)

/-- CMP (R173), direct. -/
def execCmp (address : Word) (d : Reg) (s : State) : Result :=
  s.inputDirect address (.compareWith d)

/-- CMPI (R173), immediate. -/
def execCmpi (imm : Word) (d : Reg) (s : State) : Result := s.inputImmediate imm (.compareWith d)

/-- CMP@ (R173), indirect. -/
def execCmpAt (m d : Reg) (s : State) : Result := s.inputIndirect m (.compareWith d)

/-- AND (R174), direct. -/
def execAnd (address : Word) (d : Reg) (s : State) : Result := s.inputDirect address (.andInto d)

/-- ANDI (R174), immediate. -/
def execAndi (imm : Word) (d : Reg) (s : State) : Result := s.inputImmediate imm (.andInto d)

/-- AND@ (R174), indirect. -/
def execAndAt (m d : Reg) (s : State) : Result := s.inputIndirect m (.andInto d)

/-- XOR (R175), direct. -/
def execXor (address : Word) (d : Reg) (s : State) : Result := s.inputDirect address (.xorInto d)

/-- XORI (R175), immediate. -/
def execXori (imm : Word) (d : Reg) (s : State) : Result := s.inputImmediate imm (.xorInto d)

/-- XOR@ (R175), indirect. -/
def execXorAt (m d : Reg) (s : State) : Result := s.inputIndirect m (.xorInto d)

/-- PSHR (R164): MVO@ through the stack pointer. -/
def execPshr (src : Reg) (s : State) : Result := s.outputIndirect src .r6

/-- PULR (R169): MVI@ through the stack pointer. -/
def execPulr (d : Reg) (s : State) : Result := s.inputIndirect .r6 (.load d)

end Sys2Proof.Machine
end

