-- ==== Sys2Proof/Machine/Jump.lean ====
section
/-! DEFINITION. The jump group (spec/46_jump.md R320 to R329). -/

namespace Sys2Proof.Machine

/-- J (R321). -/
def execJ (address : Word) (s : State) : Result := s.unlessDbl fun s => s.jump none none address

/-- JE (R323). -/
def execJe (address : Word) (s : State) : Result :=
  s.unlessDbl fun s => s.jump none (some true) address

/-- JD (R324). -/
def execJd (address : Word) (s : State) : Result :=
  s.unlessDbl fun s => s.jump none (some false) address

/-- JSR (R322): the return address, PC0 + 3, goes to R4, R5 or R6; nothing is pushed. -/
def execJsr (link : Reg) (address : Word) (s : State) : Result :=
  s.unlessDbl fun s => s.jump (some link) none address

/-- JSRE (R325): the return address, PC0 + 3, goes to R4, R5 or R6; nothing is pushed. -/
def execJsre (link : Reg) (address : Word) (s : State) : Result :=
  s.unlessDbl fun s => s.jump (some link) (some true) address

/-- JSRD (R326): the return address, PC0 + 3, goes to R4, R5 or R6; nothing is pushed. -/
def execJsrd (link : Reg) (address : Word) (s : State) : Result :=
  s.unlessDbl fun s => s.jump (some link) (some false) address

/-- Jump words with DE = 11: the spec gives them no meaning and refuses them, after SDBD as well
(R320, R328; spec/93_implementation_defined.md U4). -/
def execUndefJumpDe11 (s : State) : Result :=
  if s.dbl then .refused .doubleByteNotForThisInstruction else .refused .jumpInterruptControl11

end Sys2Proof.Machine
end

