-- ==== Sys2Proof/Machine/Registers.lean ====
section
/-! DEFINITION. The register to register instructions (spec/42_register_register.md R230 to R241). -/

namespace Sys2Proof.Machine

/-- MOVR (R231). -/
def execMovr (src d : Reg) (s : State) : Result := s.unlessDbl fun s => s.setLogic d (s.reg src)

/-- ADDR (R232). -/
def execAddr (src d : Reg) (s : State) : Result := s.unlessDbl fun s => s.addTo d (s.reg src)

/-- SUBR (R233). -/
def execSubr (src d : Reg) (s : State) : Result := s.unlessDbl fun s => s.subFrom d (s.reg src)

/-- CMPR (R234). -/
def execCmpr (src d : Reg) (s : State) : Result := s.unlessDbl fun s => s.compareWith d (s.reg src)

/-- ANDR (R235). -/
def execAndr (src d : Reg) (s : State) : Result := s.unlessDbl fun s => s.andInto d (s.reg src)

/-- XORR (R236). -/
def execXorr (src d : Reg) (s : State) : Result := s.unlessDbl fun s => s.xorInto d (s.reg src)

/-- TSTR (R237): MOVR of a register to itself. -/
def execTstr (src : Reg) (s : State) : Result := s.unlessDbl fun s => s.setLogic src (s.reg src)

/-- JR (R238): MOVR to R7; S and Z are written. -/
def execJr (src : Reg) (s : State) : Result := s.unlessDbl fun s => s.setLogic .r7 (s.reg src)

/-- CLRR (R239): XORR of a register with itself. -/
def execClrr (d : Reg) (s : State) : Result := s.unlessDbl fun s => s.xorInto d (s.reg d)

end Sys2Proof.Machine
end

