-- ==== Sys2Proof/Machine/Shift.lean ====
section
/-! DEFINITION. The register shifts (spec/43_register_shift.md R250 to R261). The bit-level semantics are the
spec's, given there from general knowledge (spec/93_implementation_defined.md G1; log 24). -/

namespace Sys2Proof.Machine

/-- Write a shift's result to the register with S, Z, C and OV; Z is of the whole result (R251). -/
def State.setShift (s : State) (r : Reg) (v : Word) (sign c ov : Bool) : State :=
  (s.setReg r v).setStatus { s := sign, z := v == 0, c := c, ov := ov }

/-- SWAP (R252): the two bytes change places, or the low byte is copied into both. -/
def execSwap (r : Reg) (n : Count) (s : State) : Result :=
  s.unlessDbl fun s =>
    let v := s.reg r
    let lo := v.extractLsb' 0 8
    let hi := v.extractLsb' 8 8
    let w : Word := match n with
      | .one => lo ++ hi
      | .two => lo ++ lo
    s.setShift r w (s.plat.shiftSBit.of w) s.status.c s.status.ov

/-- SLL (R253): zeros enter at the right. -/
def execSll (r : Reg) (n : Count) (s : State) : Result :=
  s.unlessDbl fun s =>
    let v := s.reg r
    let w := match n with
      | .one => v <<< 1
      | .two => v <<< 2
    s.setShift r w w.msb s.status.c s.status.ov

/-- RLC (R254): the link is C for one position, C and OV for two, C the more significant. -/
def execRlc (r : Reg) (n : Count) (s : State) : Result :=
  s.unlessDbl fun s =>
    let v := s.reg r
    let f := s.status
    match n with
    | .one =>
      let w : Word := v.extractLsb' 0 15 ++ BitVec.ofBool f.c
      s.setShift r w w.msb (v.getLsbD 15) f.ov
    | .two =>
      let w : Word := v.extractLsb' 0 14 ++ BitVec.ofBool f.c ++ BitVec.ofBool f.ov
      s.setShift r w w.msb (v.getLsbD 15) (v.getLsbD 14)

/-- SLLC (R255): zeros enter at the right, the bits shifted out go to C, or to C and OV. -/
def execSllc (r : Reg) (n : Count) (s : State) : Result :=
  s.unlessDbl fun s =>
    let v := s.reg r
    match n with
    | .one =>
      let w := v <<< 1
      s.setShift r w w.msb (v.getLsbD 15) s.status.ov
    | .two =>
      let w := v <<< 2
      s.setShift r w w.msb (v.getLsbD 15) (v.getLsbD 14)

/-- SLR (R256): zeros enter at the left. -/
def execSlr (r : Reg) (n : Count) (s : State) : Result :=
  s.unlessDbl fun s =>
    let v := s.reg r
    let w := match n with
      | .one => v >>> 1
      | .two => v >>> 2
    s.setShift r w (s.plat.shiftSBit.of w) s.status.c s.status.ov

/-- SAR (R257): the sign bit is kept and copied. -/
def execSar (r : Reg) (n : Count) (s : State) : Result :=
  s.unlessDbl fun s =>
    let v := s.reg r
    let w := match n with
      | .one => v.sshiftRight 1
      | .two => v.sshiftRight 2
    s.setShift r w (s.plat.shiftSBit.of w) s.status.c s.status.ov

/-- RRC (R258): the link enters at the left, C for one position, OV and C for two; the bits shifted
out go to C, or to C and OV. -/
def execRrc (r : Reg) (n : Count) (s : State) : Result :=
  s.unlessDbl fun s =>
    let v := s.reg r
    let f := s.status
    match n with
    | .one =>
      let w : Word := BitVec.ofBool f.c ++ v.extractLsb' 1 15
      s.setShift r w (s.plat.shiftSBit.of w) (v.getLsbD 0) f.ov
    | .two =>
      let w : Word := BitVec.ofBool f.ov ++ BitVec.ofBool f.c ++ v.extractLsb' 2 14
      s.setShift r w (s.plat.shiftSBit.of w) (v.getLsbD 0) (v.getLsbD 1)

/-- SARC (R259): SAR with the bits shifted out to C, or to C and OV. -/
def execSarc (r : Reg) (n : Count) (s : State) : Result :=
  s.unlessDbl fun s =>
    let v := s.reg r
    match n with
    | .one =>
      let w := v.sshiftRight 1
      s.setShift r w (s.plat.shiftSBit.of w) (v.getLsbD 0) s.status.ov
    | .two =>
      let w := v.sshiftRight 2
      s.setShift r w (s.plat.shiftSBit.of w) (v.getLsbD 0) (v.getLsbD 1)

end Sys2Proof.Machine
end

