-- ==== Sys2Proof/Machine/Single.lean ====
section
/-! DEFINITION. The single register instructions (spec/44_single_register.md R279 to R289). -/

namespace Sys2Proof.Machine

/-- INCR (R280): C and OV keep their values. -/
def execIncr (d : Reg) (s : State) : Result := s.unlessDbl fun s => s.setLogic d (s.reg d + 1)

/-- DECR (R281): C and OV keep their values. -/
def execDecr (d : Reg) (s : State) : Result := s.unlessDbl fun s => s.setLogic d (s.reg d - 1)

/-- COMR (R282): the one's complement. -/
def execComr (d : Reg) (s : State) : Result := s.unlessDbl fun s => s.setLogic d (~~~s.reg d)

/-- NEGR (R283): 0 - x. -/
def execNegr (d : Reg) (s : State) : Result := s.unlessDbl fun s => s.setSum d (sub17 0 (s.reg d))

/-- ADCR (R284): the old carry is the carry-in. -/
def execAdcr (d : Reg) (s : State) : Result :=
  s.unlessDbl fun s => s.setSum d (add17 (s.reg d) 0 s.status.c)

/-- GSWD (R285): the status word into R0 to R3; no status bit changes. -/
def execGswd (d : Reg) (s : State) : Result := s.unlessDbl fun s => s.setReg d s.status.word

/-- NOP (R286): nothing but the fetch. -/
def execNop (s : State) : Result := s.unlessDbl fun s => s

/-- SIN (R287): a pulse on the PCIT* pin, no CPU state. -/
def execSin (s : State) : Result := s.unlessDbl fun s => s.emit .pcitPulse

/-- RSWD (R288): the status bits from the low byte of a register. -/
def execRswd (src : Reg) (s : State) : Result :=
  s.unlessDbl fun s => s.setStatus (.ofWord (s.reg src))

end Sys2Proof.Machine
end

