-- ==== Sys2Proof/Machine/Dispatch.lean ====
section
/-! DEFINITION. The meaning of every instruction: one arm per constructor of Instr. -/

namespace Sys2Proof.Machine

/-- What an instruction does in a state whose program counter already stands past the words the fetch has
read (spec/10_state.md R35). -/
def exec (i : Instr) (s : State) : Host.Outcome State Fault Refusal :=
  match i with
  | .hlt => Sys2Proof.Machine.execHlt s
  | .sdbd => Sys2Proof.Machine.execSdbd s
  | .eis => Sys2Proof.Machine.execEis s
  | .dis => Sys2Proof.Machine.execDis s
  | .tci => Sys2Proof.Machine.execTci s
  | .clrc => Sys2Proof.Machine.execClrc s
  | .setc => Sys2Proof.Machine.execSetc s
  | .j address => Sys2Proof.Machine.execJ address s
  | .je address => Sys2Proof.Machine.execJe address s
  | .jd address => Sys2Proof.Machine.execJd address s
  | .jsr link address => Sys2Proof.Machine.execJsr link address s
  | .jsre link address => Sys2Proof.Machine.execJsre link address s
  | .jsrd link address => Sys2Proof.Machine.execJsrd link address s
  | .undefJumpDe11 _ _ => Sys2Proof.Machine.execUndefJumpDe11 s
  | .incr d => Sys2Proof.Machine.execIncr d s
  | .decr d => Sys2Proof.Machine.execDecr d s
  | .comr d => Sys2Proof.Machine.execComr d s
  | .negr d => Sys2Proof.Machine.execNegr d s
  | .adcr d => Sys2Proof.Machine.execAdcr d s
  | .rswd src => Sys2Proof.Machine.execRswd src s
  | .gswd d => Sys2Proof.Machine.execGswd d s
  | .nop _ => Sys2Proof.Machine.execNop s
  | .sin _ => Sys2Proof.Machine.execSin s
  | .swap r n => Sys2Proof.Machine.execSwap r n s
  | .sll r n => Sys2Proof.Machine.execSll r n s
  | .rlc r n => Sys2Proof.Machine.execRlc r n s
  | .sllc r n => Sys2Proof.Machine.execSllc r n s
  | .slr r n => Sys2Proof.Machine.execSlr r n s
  | .sar r n => Sys2Proof.Machine.execSar r n s
  | .rrc r n => Sys2Proof.Machine.execRrc r n s
  | .sarc r n => Sys2Proof.Machine.execSarc r n s
  | .movr src d => Sys2Proof.Machine.execMovr src d s
  | .addr src d => Sys2Proof.Machine.execAddr src d s
  | .subr src d => Sys2Proof.Machine.execSubr src d s
  | .cmpr src d => Sys2Proof.Machine.execCmpr src d s
  | .andr src d => Sys2Proof.Machine.execAndr src d s
  | .xorr src d => Sys2Proof.Machine.execXorr src d s
  | .b dir disp => Sys2Proof.Machine.execB dir disp s
  | .bc dir disp => Sys2Proof.Machine.execBc dir disp s
  | .bov dir disp => Sys2Proof.Machine.execBov dir disp s
  | .bpl dir disp => Sys2Proof.Machine.execBpl dir disp s
  | .bze dir disp => Sys2Proof.Machine.execBze dir disp s
  | .blt dir disp => Sys2Proof.Machine.execBlt dir disp s
  | .ble dir disp => Sys2Proof.Machine.execBle dir disp s
  | .busc dir disp => Sys2Proof.Machine.execBusc dir disp s
  | .nopp dir disp => Sys2Proof.Machine.execNopp dir disp s
  | .bnc dir disp => Sys2Proof.Machine.execBnc dir disp s
  | .bnov dir disp => Sys2Proof.Machine.execBnov dir disp s
  | .bmi dir disp => Sys2Proof.Machine.execBmi dir disp s
  | .bnze dir disp => Sys2Proof.Machine.execBnze dir disp s
  | .bge dir disp => Sys2Proof.Machine.execBge dir disp s
  | .bgt dir disp => Sys2Proof.Machine.execBgt dir disp s
  | .besc dir disp => Sys2Proof.Machine.execBesc dir disp s
  | .bext dir disp e => Sys2Proof.Machine.execBext dir disp e s
  | .mvo src address => Sys2Proof.Machine.execMvo src address s
  | .mvoi src => Sys2Proof.Machine.execMvoi src s
  | .mvoAt src m => Sys2Proof.Machine.execMvoAt src m s
  | .mvi address d => Sys2Proof.Machine.execMvi address d s
  | .mvii imm d => Sys2Proof.Machine.execMvii imm d s
  | .mviAt m d => Sys2Proof.Machine.execMviAt m d s
  | .add address d => Sys2Proof.Machine.execAdd address d s
  | .addi imm d => Sys2Proof.Machine.execAddi imm d s
  | .addAt m d => Sys2Proof.Machine.execAddAt m d s
  | .sub address d => Sys2Proof.Machine.execSub address d s
  | .subi imm d => Sys2Proof.Machine.execSubi imm d s
  | .subAt m d => Sys2Proof.Machine.execSubAt m d s
  | .cmp address src => Sys2Proof.Machine.execCmp address src s
  | .cmpi imm src => Sys2Proof.Machine.execCmpi imm src s
  | .cmpAt m src => Sys2Proof.Machine.execCmpAt m src s
  | .and address d => Sys2Proof.Machine.execAnd address d s
  | .andi imm d => Sys2Proof.Machine.execAndi imm d s
  | .andAt m d => Sys2Proof.Machine.execAndAt m d s
  | .xor address d => Sys2Proof.Machine.execXor address d s
  | .xori imm d => Sys2Proof.Machine.execXori imm d s
  | .xorAt m d => Sys2Proof.Machine.execXorAt m d s
  | .tstr src => Sys2Proof.Machine.execTstr src s
  | .jr src => Sys2Proof.Machine.execJr src s
  | .clrr d => Sys2Proof.Machine.execClrr d s
  | .pshr src => Sys2Proof.Machine.execPshr src s
  | .pulr d => Sys2Proof.Machine.execPulr d s
  | .blgt dir disp => Sys2Proof.Machine.execBlgt dir disp s
  | .bllt dir disp => Sys2Proof.Machine.execBllt dir disp s
  | .beq dir disp => Sys2Proof.Machine.execBeq dir disp s
  | .bneq dir disp => Sys2Proof.Machine.execBneq dir disp s

end Sys2Proof.Machine
end

