-- ==== Sys2Proof/Machine/Fetch.lean ====
section
/-! DEFINITION. The instruction fetch (spec/10_state.md R33; spec/20_memory.md R82, R87), the instruction
whose words stand at the program counter, and the placing of an instruction there. -/

namespace Sys2Proof.Machine

/-- Read one word of an instruction through the program counter, which steps past it
(spec/10_state.md R33). -/
def State.fetchWord (s : State) : Word × State :=
  let (w, t) := s.busRead s.pc
  (w, t.setPc (s.pc + 1))

/-- Pass the direct address, the second word of an instruction in mode 000, to the external address register;
the program counter steps past it (spec/20_memory.md R74, R82). -/
def State.fetchAddress (s : State) : Word × State :=
  let (w, t) := s.addressRead s.pc
  (w, t.setPc (s.pc + 1))

/-- The first word of an instruction enters the instruction register, whose bits 3..0 are on EBCA3..0 from then on
(spec/10_state.md R49). One NACT follows (log 17). -/
def State.latchInstruction (s : State) (w : Word) : State := (s.emit (.select (bits w 0 4))).emit .nact

/-- Fetch an instruction: its first word, then as many more as that word and the flag D call for, in
order, each when the one before has been read (spec/30_encoding.md R121; spec/20_memory.md R82, R87); a
direct address goes to the address register. The flag D is left for the
instruction to consume. -/
def State.fetch (s : State) : Instr × State :=
  let (w1, s1) := s.fetchWord
  let s1 := s1.latchInstruction w1
  match fetchLength s.dbl w1 with
  | 1 => (decode s.dbl w1 0 0, s1)
  | 2 =>
    let (w2, s2) := if directMode w1 then s1.fetchAddress else s1.fetchWord
    (decode s.dbl w1 w2 0, s2)
  | _ =>
    let (w2, s2) := s1.fetchWord
    let (w3, s3) := s2.fetchWord
    (decode s.dbl w1 w2 w3, s3)

/-- Memory with words placed from an address on; addresses wrap (spec/20_memory.md R71). -/
def Memory.place (a : Word) : List Word → Memory → Memory
  | [], m => m
  | w :: rest, m => Memory.place (a + 1) rest (m.writeWord a w)

end Sys2Proof.Machine
end

