-- ==== Sys2Proof/Machine/Step.lean ====
section
/-! DEFINITION. One step of the machine: attend to the pins, or fetch one instruction, run it and end it. -/

namespace Sys2Proof.Machine

/-- Fetch the instruction at the program counter, run it, end it. -/
def runInstruction (s : State) : Host.Outcome State Fault Refusal :=
  match exec s.fetch.1 s.fetch.2 with
  | .next t => .next (s.fetch.2.finish s.fetch.1 t)
  | .fault r => .fault r
  | .refused r => .refused r

/-- One step: one interrupt sequence, one sample of a grant, a stop, the stopped state or MSYNC*
held low, one initialization, or one instruction. -/
def step (s : State) : Host.Outcome State Fault Refusal :=
  match s.attend with
  | .acted t => .next t
  | .fetch t => runInstruction t

/-- The state with the instruction of the bits `w` stored where the next step fetches: its words (three, the
longest instruction; bits at and above `nbits` are 0) at R7, the CPU running with the bus, no prefix
pending, and nothing to attend to first (log 25). At State.reset only the memory changes. -/
def State.withFetchWord (s : State) (nbits w : Nat) : State :=
  { s with
    mem := Memory.place s.pc (tableWords nbits w) s.mem
    dbl := false
    run := .running
    busReleased := false
    boundaryOpen := false
    syncLow := false
    env := [] }

end Sys2Proof.Machine
end

