-- ==== Sys2Proof/Safety.lean ====
section
/-! DEFINITION. The terms claims are stated in: the invariant of the machine, and the instructions the spec
gives a meaning in a state. -/

namespace Sys2Proof

/-- The data-input external reference forms that may follow SDBD: modes 001 to 101 and 111
(spec/40_external_reference.md R161; spec/70_reset_and_hazards.md R399). -/
def Instr.mayFollowSdbd : Instr → Bool
  | .mvii _ _ | .addi _ _ | .subi _ _ | .cmpi _ _ | .andi _ _ | .xori _ _ => true
  | .mviAt m _ | .addAt m _ | .subAt m _ | .cmpAt m _ | .andAt m _ | .xorAt m _ => decide (m ≠ .r6)
  | _ => false

/-- MVO through the register it stores, where the mode changes that register
(spec/40_external_reference.md R163). -/
def Instr.storesOwnPointer : Instr → Bool
  | .mvoAt s m => decide (s = m) && decide (m = .r4 ∨ m = .r5 ∨ m = .r6 ∨ m = .r7)
  | .mvoi s => decide (s = .r7)
  | .pshr s => decide (s = .r6)
  | _ => false

/-- The jump words with DE = 11 (spec/46_jump.md R328). -/
def Instr.isUndefinedJump : Instr → Bool
  | .undefJumpDe11 _ _ => true
  | _ => false

/-- The instruction has a meaning when the double-byte flag is `dbl`: it is none of the forms of
spec/93_implementation_defined.md U1 to U4. -/
def Instr.supported (i : Instr) (dbl : Bool) : Bool :=
  (!dbl || i.mayFollowSdbd) && !i.storesOwnPointer && !i.isUndefinedJump

end Sys2Proof

namespace Sys2Proof.Machine

/-- What every step keeps: memory in its canonical form; the bus released only at an open boundary; at an open
boundary a running CPU with no prefix and no halt pending (so that an interrupt never finds D set,
spec/60_exceptions.md R346); no halt pending in the stopped mode (R360); and the interrupt system disabled while
MSYNC* is low (spec/70_reset_and_hazards.md R390). -/
structure State.Ok (s : State) : Prop where
  memory : s.mem.wf = true
  released : s.busReleased = true → s.boundaryOpen = true
  boundary : s.boundaryOpen = true → s.run = .running ∧ s.dbl = false ∧ s.haltPending = false
  stopped : s.run = .stopped → s.haltPending = false
  sync : s.syncLow = true → s.intff = false

/-- The step from `s` meets no refused form (and there is no fault to meet). -/
def State.CanStep (s : State) : Prop := ∃ t, step s = .next t

end Sys2Proof.Machine
end

