-- ==== Sys2Proof/Certificates/Slice0/Obligations.lean ====
section
/-! DEFINITION. What is claimed of the machine, for the provers. The first part says, from the rules and apart
from the meanings, what the claims compare the machine with; the second part holds the claims. A frame is
written as an equation of the next state with the old one in which only the fields that may change are
taken from the next state. -/

namespace Sys2Proof.Claims

open Sys2Proof.Machine

/-! Results and status bits -/

/-- S and Z of a result (spec/10_state.md R41). -/
structure SignZero (r : Word) (f : Status) : Prop where
  sign : f.s = decide (r.toInt < 0)
  zero : f.z = decide (r = 0)

/-- Status after a result that leaves C and OV. -/
structure LogicStatus (r : Word) (old new : Status) : Prop where
  signZero : SignZero r new
  carry : new.c = old.c
  overflow : new.ov = old.ov

/-- `r` and all four bits are those of the sum `a + b + cin` (spec/10_state.md R41, R42). -/
structure SumOf (a b : Word) (cin : Bool) (r : Word) (f : Status) : Prop where
  value : r.toNat = (a.toNat + b.toNat + cin.toNat) % 65536
  carry : f.c = decide (65536 ≤ a.toNat + b.toNat + cin.toNat)
  overflow : f.ov = decide (a.toInt + b.toInt + cin.toInt < -32768 ∨ 32767 < a.toInt + b.toInt + cin.toInt)
  signZero : SignZero r f

/-- `r` and all four bits are those of the difference `a - b`; C = 1 means no borrow
(spec/10_state.md R41, R42). -/
structure DifferenceOf (a b : Word) (r : Word) (f : Status) : Prop where
  value : r.toNat = (65536 + a.toNat - b.toNat) % 65536
  carry : f.c = decide (b.toNat ≤ a.toNat)
  overflow : f.ov = decide (a.toInt - b.toInt < -32768 ∨ 32767 < a.toInt - b.toInt)
  signZero : SignZero r f

/-- Every register outside the list keeps its contents. -/
def KeepsRegsBut (ds : List Reg) (s t : State) : Prop := ∀ r, r ∉ ds → t.reg r = s.reg r

/-- Nothing but the registers in the list and the status bits has changed. -/
structure OnlyRegsStatus (ds : List Reg) (s t : State) : Prop where
  regs : KeepsRegsBut ds s t
  rest : t = { s with regs := t.regs, status := t.status }

/-- Nothing but the registers in the list has changed. -/
structure OnlyRegs (ds : List Reg) (s t : State) : Prop where
  regs : KeepsRegsBut ds s t
  rest : t = { s with regs := t.regs }

/-! Operands of the input instructions (spec/40_external_reference.md R151 to R160) -/

/-- The operand forms: direct (mode 000), immediate (111), through a pointer (001 to 110). -/
inductive InputForm where
  | direct (address : Word)
  | immediate (imm : Word)
  | pointer (m : Reg)

/-- The instruction of a family in a form. -/
def InputForm.instr (direct imm : Word → Reg → Instr) (indirect : Reg → Reg → Instr) (d : Reg) :
    InputForm → Instr
  | .direct a => direct a d
  | .immediate v => imm v d
  | .pointer m => indirect m d

/-- The state after a word has been read from the location the address register holds: DTB (R73, R74). -/
def afterDirectRead (s : State) (a : Word) : State :=
  { s with events := .dtb (s.busValue a) :: s.events, oracle := s.oracle + 1 }

/-- The state after a word has been read at an address: BAR, NACT, DTB (R73, R74; log 17). -/
def afterRead (s : State) (a : Word) : State :=
  { s with events := .dtb (s.busValue a) :: .nact :: .bar a :: s.events, oracle := s.oracle + 1 }

/-- The value of two words read for double byte data (R158). -/
def lowBytes (first second : Word) : Word := BitVec.ofNat 16 (second.toNat % 256 * 256 + first.toNat % 256)

/-- The operand of an input instruction and the state in which the operation is performed, or none where
the spec gives the form no meaning: after SDBD in mode 000 or 110 (R161), or a register that no mode
names. -/
def operandOf (s : State) : InputForm → Option (Word × State)
  | .direct a => if s.dbl then none else some (s.busValue a, afterDirectRead s a)
  | .immediate v => some (v, { s with dbl := false })
  | .pointer m =>
    let x := s.reg m
    match m with
    | .r1 | .r2 | .r3 =>
      if s.dbl then
        let s1 := afterRead s x
        some (lowBytes (s.busValue x) (s1.busValue x), { afterRead s1 x with dbl := false })
      else some (s.busValue x, afterRead s x)
    | .r4 | .r5 =>
      if s.dbl then
        let s1 := afterRead s x
        some (lowBytes (s.busValue x) (s1.busValue (x + 1)),
          { afterRead s1 (x + 1) with dbl := false, regs := s.regs.set m (x + 2) })
      else some (s.busValue x, { afterRead s x with regs := s.regs.set m (x + 1) })
    | .r6 =>
      if s.dbl then none
      else some (s.busValue (x - 1), { afterRead s (x - 1) with regs := s.regs.set .r6 (x - 1) })
    | .r0 | .r7 => none

/-! Outputs (spec/40_external_reference.md R162 to R166) -/

/-- The memory of `t` is that of `s` after the word `v` has gone to the address `ea`: read/write memory holds as
much of it as it has room for, any other location leaves memory as it was, and no other cell has changed
(spec/20_memory.md R72, R79). -/
structure StoredWord (ea v : Word) (s t : State) : Prop where
  others : ∀ k, k ≠ 2 * ea.toNat → k ≠ 2 * ea.toNat + 1 → t.mem.readByte k = s.mem.readByte k
  value : s.plat.kindOf ea = .ram → s.mem.wf = true →
    (t.mem.readWord ea).toNat = v.toNat % 2 ^ (min 16 (s.plat.widthOf ea))
  noRam : s.plat.kindOf ea ≠ .ram → t.mem = s.mem

/-- `t` is `s`, in which the address register holds `ea`, after the word `v` has gone there: DW, DWS, NACT
(spec/20_memory.md R73, R74). Nothing else has changed. -/
structure StoredAt (ea v : Word) (s t : State) : Prop where
  word : StoredWord ea v s t
  rest : t = { s with mem := t.mem, events := .nact :: .dws v :: .dw v :: s.events }

/-- The state after an address has been put into the address register: BAR, NACT. -/
def addressed (a : Word) (s : State) : State := { s with events := .nact :: .bar a :: s.events }

/-- `v` is what memory whose word at the address `a` is `w` puts on the bus: the bits it has room for, and on the
lines above them a free value fixed for the platform (spec/20_memory.md R72, R79). -/
structure Drives (p : Platform) (a w v : Word) : Prop where
  low : v.toNat % 2 ^ (min 16 (p.widthOf a)) = w.toNat % 2 ^ (min 16 (p.widthOf a))
  undriven : ∀ k, p.widthOf a ≤ k → k < 16 → v.getLsbD k = (Config.undriven a).getLsbD k

/-- The registers an output through the pointer `m` leaves: R4 to R7 stepped (R153 to R156). -/
def afterOutputAddress (s : State) (m : Reg) : State :=
  match m with
  | .r4 | .r5 | .r6 | .r7 => { s with regs := s.regs.set m (s.reg m + 1) }
  | .r0 | .r1 | .r2 | .r3 => s

/-! Branches (spec/41_branches.md) -/

/-- The state after a branch: the program counter, which stands after both words, plus the displacement,
or less the displacement and one (R218), if the branch is taken. -/
def afterBranch (taken : Bool) (dir : Dir) (disp : Word) (s : State) : State :=
  if taken then
    match dir with
    | .forward => { s with regs := s.regs.set .r7 (s.reg .r7 + disp) }
    | .backward => { s with regs := s.regs.set .r7 (s.reg .r7 - disp - 1) }
  else s

/-- The internal branches with their condition field, and what they test (R201 to R216). -/
def internalBranches : List (Nat × (Dir → Word → Instr) × (Status → Bool)) :=
  [ (0b0000, .b, fun _ => true),
    (0b0001, .bc, fun f => f.c == true),
    (0b0010, .bov, fun f => f.ov == true),
    (0b0011, .bpl, fun f => f.s == false),
    (0b0100, .bze, fun f => f.z == true),
    (0b0101, .blt, fun f => (f.s != f.ov) == true),
    (0b0110, .ble, fun f => (f.z || f.s != f.ov) == true),
    (0b0111, .busc, fun f => (f.c != f.s) == true),
    (0b1000, .nopp, fun _ => false),
    (0b1001, .bnc, fun f => f.c == false),
    (0b1010, .bnov, fun f => f.ov == false),
    (0b1011, .bmi, fun f => f.s == true),
    (0b1100, .bnze, fun f => f.z == false),
    (0b1101, .bge, fun f => (f.s != f.ov) == false),
    (0b1110, .bgt, fun f => (f.z || f.s != f.ov) == false),
    (0b1111, .besc, fun f => (f.c != f.s) == false) ]

/-- The second names of branches, and what they test (R202, R205, R210, R213). -/
def secondNameBranches : List ((Dir → Word → Instr) × (Status → Bool)) :=
  [ (.blgt, fun f => f.c == true), (.bllt, fun f => f.c == false),
    (.beq, fun f => f.z == true), (.bneq, fun f => f.z == false) ]

/-- The first word of a branch with direction bit, external bit 0 and condition (R115). -/
def branchWord (dir : Dir) (condition : Nat) : Word :=
  BitVec.ofNat 16 (0b1000000000 + (if dir = .backward then 32 else 0) + condition)

/-! Words -/

/-- A first word with a 3-bit register number below the bits `base`. -/
def withReg (base : Nat) (r : Reg) : Word := BitVec.ofNat 16 (base + r.num.toNat)

/-- A first word with a source and a destination register below the bits `base` (R116). -/
def withRegs (base : Nat) (s d : Reg) : Word := BitVec.ofNat 16 (base + 8 * s.num.toNat + d.num.toNat)

/-- The words of a jump with the bits BB and DE (R120). -/
def jumpWords (bb : Nat) (address : Word) (de : Nat) : List Word :=
  [0x0004, BitVec.ofNat 16 (256 * bb + address.toNat / 1024 * 4 + de), BitVec.ofNat 16 (address.toNat % 1024)]

/-! Which instruction writes what (spec/10_state.md R43, R45, R36) -/

/-- The status bits an instruction may write, in the order S, Z, C, OV (R43). -/
def statusWrites : Instr → Bool × Bool × Bool × Bool
  | .addr _ _ | .subr _ _ | .cmpr _ _ | .negr _ | .adcr _ | .rswd _ => (true, true, true, true)
  | .add _ _ | .addi _ _ | .addAt _ _ | .sub _ _ | .subi _ _ | .subAt _ _ => (true, true, true, true)
  | .cmp _ _ | .cmpi _ _ | .cmpAt _ _ => (true, true, true, true)
  | .movr _ _ | .tstr _ | .jr _ | .andr _ _ | .xorr _ _ | .clrr _ => (true, true, false, false)
  | .incr _ | .decr _ | .comr _ => (true, true, false, false)
  | .and _ _ | .andi _ _ | .andAt _ _ | .xor _ _ | .xori _ _ | .xorAt _ _ => (true, true, false, false)
  | .swap _ _ | .sll _ _ | .slr _ _ | .sar _ _ => (true, true, false, false)
  | .rlc _ .one | .sllc _ .one | .rrc _ .one | .sarc _ .one => (true, true, true, false)
  | .rlc _ .two | .sllc _ .two | .rrc _ .two | .sarc _ .two => (true, true, true, true)
  | .clrc | .setc => (false, false, true, false)
  | .gswd _ | .nop _ | .sin _ | .hlt | .sdbd | .eis | .dis | .tci => (false, false, false, false)
  | .j _ | .je _ | .jd _ | .jsr _ _ | .jsre _ _ | .jsrd _ _ | .undefJumpDe11 _ _ => (false, false, false, false)
  | .b _ _ | .bc _ _ | .bov _ _ | .bpl _ _ | .bze _ _ | .blt _ _ | .ble _ _ | .busc _ _ => (false, false, false, false)
  | .nopp _ _ | .bnc _ _ | .bnov _ _ | .bmi _ _ | .bnze _ _ | .bge _ _ | .bgt _ _ | .besc _ _ => (false, false, false, false)
  | .bext _ _ _ | .blgt _ _ | .bllt _ _ | .beq _ _ | .bneq _ _ => (false, false, false, false)
  | .mvo _ _ | .mvoAt _ _ | .mvoi _ | .pshr _ => (false, false, false, false)
  | .mvi _ _ | .mvii _ _ | .mviAt _ _ | .pulr _ => (false, false, false, false)

/-- The registers an instruction may change besides the fetch: its destination, the pointer its mode steps,
the link register, and R7 for a transfer of control (R36, R38; spec/40_external_reference.md R154 to R156). -/
def registersWritten : Instr → List Reg
  | .incr d | .decr d | .comr d | .negr d | .adcr d | .gswd d => [d]
  | .swap r _ | .sll r _ | .rlc r _ | .sllc r _ | .slr r _ | .sar r _ | .rrc r _ | .sarc r _ => [r]
  | .movr _ d | .addr _ d | .subr _ d | .andr _ d | .xorr _ d => [d]
  | .tstr s => [s]
  | .jr _ => [.r7]
  | .clrr d => [d]
  | .mvi _ d | .mvii _ d | .add _ d | .addi _ d | .sub _ d | .subi _ d => [d]
  | .and _ d | .andi _ d | .xor _ d | .xori _ d => [d]
  | .mviAt m d | .addAt m d | .subAt m d | .andAt m d | .xorAt m d =>
    if m = .r4 ∨ m = .r5 ∨ m = .r6 then [m, d] else [d]
  | .cmpAt m _ | .mvoAt _ m => if m = .r4 ∨ m = .r5 ∨ m = .r6 then [m] else []
  | .mvoi _ => [.r7]
  | .pshr _ => [.r6]
  | .pulr d => [.r6, d]
  | .j _ | .je _ | .jd _ => [.r7]
  | .jsr link _ | .jsre link _ | .jsrd link _ => [link, .r7]
  | .b _ _ | .bc _ _ | .bov _ _ | .bpl _ _ | .bze _ _ | .blt _ _ | .ble _ _ | .busc _ _ => [.r7]
  | .nopp _ _ => []
  | .bnc _ _ | .bnov _ _ | .bmi _ _ | .bnze _ _ | .bge _ _ | .bgt _ _ | .besc _ _ => [.r7]
  | .bext _ _ _ | .blgt _ _ | .bllt _ _ | .beq _ _ | .bneq _ _ => [.r7]
  | .hlt | .sdbd | .eis | .dis | .tci | .clrc | .setc | .nop _ | .sin _ | .rswd _ => []
  | .cmpr _ _ | .cmp _ _ | .cmpi _ _ | .mvo _ _ | .undefJumpDe11 _ _ => []

/-- The address an instruction stores to, if it stores (spec/40_external_reference.md R162 to R166). -/
def storeAddress (s : State) : Instr → Option Word
  | .mvo _ a => some a
  | .mvoAt _ m => some (s.reg m)
  | .mvoi _ => some (s.reg .r7)
  | .pshr _ => some (s.reg .r6)
  | _ => none

/-- The bus cycles of a read: BAR, NACT, DTB, the last first (spec/20_memory.md R74; log 17). -/
def readCycles (s : State) (a : Word) : List Event := [.dtb (s.busValue a), .nact, .bar a]

/-- The data accesses of an input through a pointer, the last first (spec/20_memory.md R82). -/
def pointerReads (s : State) (m : Reg) : List Event :=
  if m = .r6 then readCycles s (s.reg .r6 - 1)
  else if s.dbl then
    readCycles (afterRead s (s.reg m)) (if m = .r4 ∨ m = .r5 then s.reg m + 1 else s.reg m) ++ readCycles s (s.reg m)
  else readCycles s (s.reg m)

/-- The bus cycles of a write whose address register is loaded: DW, DWS, NACT, the last first (R74). -/
def writeCycles (v : Word) : List Event := [.nact, .dws v, .dw v]

/-- What an instruction does on the bus and the output pins after its fetch, the last first
(spec/20_memory.md R73, R74, R82; spec/44_single_register.md R287; spec/45_internal_control.md R304). The word an
output carries is the register after the pointer's update. A direct address has been put into the address
register by the fetch. -/
def eventsOf (s : State) : Instr → List Event
  | .mvo src _ => writeCycles (s.reg src)
  | .mvoAt src m => writeCycles ((afterOutputAddress s m).reg src) ++ [.nact, .bar (s.reg m)]
  | .mvoi src => writeCycles ((afterOutputAddress s .r7).reg src) ++ [.nact, .bar (s.reg .r7)]
  | .pshr src => writeCycles ((afterOutputAddress s .r6).reg src) ++ [.nact, .bar (s.reg .r6)]
  | .mvi a _ | .add a _ | .sub a _ | .cmp a _ | .and a _ | .xor a _ => [.dtb (s.busValue a)]
  | .mviAt m _ | .addAt m _ | .subAt m _ | .cmpAt m _ | .andAt m _ | .xorAt m _ => pointerReads s m
  | .pulr _ => readCycles s (s.reg .r6 - 1)
  | .tci => [.tciPulse]
  | .sin _ => [.pcitPulse]
  | .bext _ _ e => [.select e]
  | _ => []

/-- How many micro states a log accounts for: each of them has one bus control code (spec/20_memory.md R73). -/
def microStates (log : List Event) : Nat := (log.filter fun e => e.code.isSome).length

/-! Forms (spec/40_external_reference.md R150) -/

/-- Mode 000: a direct address. -/
def isDirect : Instr → Bool
  | .mvo _ _ | .mvi _ _ | .add _ _ | .sub _ _ | .cmp _ _ | .and _ _ | .xor _ _ => true
  | _ => false

/-- A data input in mode 000 or 110, which is not supported in the double byte mode (R161). -/
def isDirectOrStackInput : Instr → Bool
  | .mvi _ _ | .add _ _ | .sub _ _ | .cmp _ _ | .and _ _ | .xor _ _ => true
  | .mviAt m _ | .addAt m _ | .subAt m _ | .cmpAt m _ | .andAt m _ | .xorAt m _ => decide (m = .r6)
  | .pulr _ => true
  | _ => false

/-- An external reference with data input, in any mode: what may follow SDBD at all (R161, R299). -/
def isDataInput : Instr → Bool
  | .mvi _ _ | .add _ _ | .sub _ _ | .cmp _ _ | .and _ _ | .xor _ _ => true
  | .mvii _ _ | .addi _ _ | .subi _ _ | .cmpi _ _ | .andi _ _ | .xori _ _ => true
  | .mviAt _ _ | .addAt _ _ | .subAt _ _ | .cmpAt _ _ | .andAt _ _ | .xorAt _ _ => true
  | .pulr _ => true
  | _ => false

/-- The instructions after which no request is examined (spec/60_exceptions.md R352, R353). -/
def closesBoundary (p : Platform) : Instr → Bool
  | .swap _ _ | .sll _ _ | .rlc _ _ | .sllc _ _ | .slr _ _ | .sar _ _ | .rrc _ _ | .sarc _ _ => true
  | .eis | .dis | .tci | .clrc | .setc | .sdbd => true
  | .hlt => true
  | .mvo _ _ | .mvoAt _ _ | .mvoi _ | .pshr _ => !p.mvoInterruptible
  | _ => false

/-- Every address is 16-bit read/write memory. -/
def PlainMemory (s : State) : Prop := s.plat.regions = []

/-- No request is to be attended to before the next fetch: the CPU runs, owns the bus, is not held by MSYNC*, no
sample is waiting, and neither a halt nor a stop edge is pending where the boundary is open. -/
structure Quiet (s : State) : Prop where
  running : s.run = .running
  owned : s.busReleased = false
  free : s.syncLow = false
  silent : s.env = []
  noHalt : s.boundaryOpen = true → s.haltPending = false ∧ s.stopPending = false

end Sys2Proof.Claims

open Sys2Proof
open Sys2Proof.Machine
open Sys2Proof.Claims

/-! Invariant and reset -/

/-- The state after reset meets the invariant that every step keeps. -/
def Obligations.ResetMeetsInvariant : Prop := State.reset.Ok

/-- Every step that answers a next state keeps the invariant: memory stays canonical, the bus is released only at
an open boundary, an open boundary finds the CPU running with no prefix and no halt pending, the stopped
CPU has no halt pending, and the interrupt system is disabled while MSYNC* is low. -/
def Obligations.StepKeepsInvariant : Prop := ∀ s t : State, s.Ok → step s = .next t → t.Ok

/-- While MSYNC* is low, whatever the CPU was doing, nothing executes: each sample shows NACT and finds the
interrupt system disabled and HALT and BUSAK* inactive. When it has gone high there is one IAB, by which the program
counter comes from the bus; INTFF and D are 0, the CPU runs and owns the bus, no request is examined before the fetch,
and memory is neither read nor written (spec/70_reset_and_hazards.md section 1; 92_eei_decisions.md D5). The model's
choices (log 11): registers, status bits and memory keep what they had while it is low, memory even where the sample
lists writes of other masters; no stop edge stays recorded after it; HALT and BUSAK* are inactive, which is read from
R390 against the words 'bus released' of R391. Also the model's choices (log 17): one NACT for each low sample, and IAB
as the only code of the initialization, whose length is not given. R0 to R6 and the status bits after it are
unconstrained. -/
def Obligations.InitializationSequence : Prop :=
  (∀ (s : State) (p : Pins) (rest : List Pins), s.env = p :: rest → p.msync = true →
    ∃ t, step s = .next t ∧
      t = { s with pins := p, env := rest, stopPending := t.stopPending, intff := false, run := .running,
                   busReleased := false, syncLow := true, events := .nact :: s.events }) ∧
  (∀ s : State, s.syncLow = true → (s.env.headD .quiet).msync = false →
    ∃ t, step s = .next t ∧ t.reg .r7 = s.plat.resetVector ∧ t.intff = false ∧ t.dbl = false ∧
      t.run = .running ∧ t.haltPending = false ∧ t.busReleased = false ∧ t.stopPending = false ∧
      t.boundaryOpen = false ∧ t.syncLow = false ∧ t.mem = s.mem ∧ t.plat = s.plat ∧ t.env = s.env.tail ∧
      t.events = .iab s.plat.resetVector :: s.events)

/-! Encoding -/

/-- Decoding the words of a well-formed instruction gives it back, with the words after it untouched; a second
name comes back as the core instruction it stands for. -/
def Obligations.EncodeDecodeRoundTrip : Prop :=
  ∀ (dbl : Bool) (i : Instr) (rest : List Word), i.WellFormed →
    decodeWords dbl (encode dbl i ++ rest) = .ok (i.canonical, rest)

/-- Whatever the words, the decoder answers an instruction that has an encoding, and never a second name. -/
def Obligations.DecodeAnswersWellFormedCore : Prop :=
  ∀ (dbl : Bool) (w1 w2 w3 : Word),
    (decode dbl w1 w2 w3).WellFormed ∧ (decode dbl w1 w2 w3).canonical = decode dbl w1 w2 w3

/-- The bits that are ignored: the high order 6 bits of a first word, in decoding and in the length; bits 15..10
of the second and third word of a jump; bits 15..8 of the two data words of an immediate after SDBD. -/
def Obligations.UpperBitsIgnored : Prop :=
  (∀ (dbl : Bool) (upper : BitVec 6) (iw : BitVec 10) (w2 w3 : Word),
    decode dbl (upper ++ iw) w2 w3 = decode dbl (0#6 ++ iw) w2 w3 ∧
    instructionLength dbl (upper ++ iw) = instructionLength dbl (0#6 ++ iw) ∧
    fetchLength dbl (upper ++ iw) = fetchLength dbl (0#6 ++ iw)) ∧
  (∀ (dbl : Bool) (u2 u3 : BitVec 6) (w2 w3 : BitVec 10),
    decode dbl 0x0004 (u2 ++ w2) (u3 ++ w3) = decode dbl 0x0004 (0#6 ++ w2) (0#6 ++ w3)) ∧
  (∀ (w1 : Word) (u2 u3 lo hi : BitVec 8), 0b1010 ≤ (w1.toNat / 64) % 16 → (w1.toNat / 8) % 8 = 7 →
    decode true w1 (u2 ++ lo) (u3 ++ hi) = decode true w1 (0#8 ++ lo) (0#8 ++ hi))

/-- The length of an instruction in words as a function of its first word and the flag D; the encoder writes
that many words. -/
def Obligations.InstructionLengthFunction : Prop :=
  (∀ (dbl : Bool) (w : Word), instructionLength dbl w =
    (let iw := w.toNat % 1024
     let mode := (iw / 8) % 8
     if iw = 4 then 3
     else if iw / 64 = 8 then 2
     else if 512 ≤ iw ∧ mode = 0 then 2
     else if 512 ≤ iw ∧ mode = 7 then 2 + dbl.toNat
     else 1)) ∧
  (∀ (dbl : Bool) (i : Instr), i.WellFormed →
    (encode dbl i).length = instructionLength dbl ((encode dbl i).headD 0)) ∧
  encode false .sdbd = [0x0001]

/-- Words of the manual's listings and of the spec's examples decode to the instructions printed beside them. -/
def Obligations.SpecWordsDecode : Prop :=
  decode false 0x0273 0 0 = .mvoAt .r3 .r6 ∧                      -- 0o001163 PSHR R3
  decode false 0x02B9 0x0006 0 = .mvii 6 .r1 ∧                    -- 0o001271 0o000006 MVII 6,R1
  decode false 0x01D2 0 0 = .xorr .r2 .r2 ∧                       -- 0o000722 CLRR R2
  decode false 0x0058 0 0 = .sllc .r0 .one ∧                      -- 0o000130 SLLC R0,1
  decode false 0x0056 0 0 = .rlc .r2 .two ∧                       -- 0o000126 RLC R2,2
  decode false 0x022C 0x000A 0 = .bnze .backward 0x000A ∧         -- 0o001054 0o000012 BNZE LOOP
  decode false 0x00AF 0 0 = .movr .r5 .r7 ∧                       -- 0o000257 JR R5
  decode false 0x000F 0 0 = .incr .r7 ∧                           -- 0o000017 INCR PC
  decode false 0x0004 0x0110 0x0234 = .jsr .r5 0x1234 ∧           -- JSR R5,0x1234
  decode true 0x02B8 0x0334 0x0312 = .mvii 0x1234 .r0 ∧           -- after SDBD: MVII 0x1234,R0
  decode false 0x0235 0x0001 0 = .bext .backward 1 5              -- BEXT LOOP,5

/-! A step -/

/-- Where no request is to be attended to and the program stands in plain read/write memory, a step decodes the
words at the program counter under the flag D and runs that well-formed instruction, in the state whose
program counter has stepped past the words read, whose event log records the reads (BAR, NACT, DTB for
each word, but ADAR for a direct address, and the NACT after the first word and the direct address: log 17) and the low
four bits of the first word on EBCA, and whose pins are quiet; the end of the instruction (`State.finish`) is the machine's own. A refusal is answered as it is. -/
def Obligations.StepRunsDecodedInstruction : Prop :=
  ∀ s : State, Quiet s → PlainMemory s →
    let pc := s.reg .r7
    let w1 := s.mem.readWord pc
    let w2 := s.mem.readWord (pc + 1)
    let w3 := s.mem.readWord (pc + 2)
    let n := fetchLength s.dbl w1
    let i := decode s.dbl w1 w2 w3
    let reads : List Event :=
      (if n = 3 then [.dtb w3, .nact, .bar (pc + 2)] else []) ++
      (if n = 1 then [] else if isDirect i then [.nact, .adar w2, .nact, .bar (pc + 1)]
       else [.dtb w2, .nact, .bar (pc + 1)]) ++ [.nact, .select (w1.setWidth 4), .dtb w1, .nact, .bar pc]
    let u : State := { s with
      regs := s.regs.set .r7 (pc + BitVec.ofNat 16 n)
      pins := .quiet
      oracle := s.oracle + n
      events := reads ++ s.events }
    i.WellFormed ∧
    (∀ t, exec i u = .next t → step s = .next (u.finish i t)) ∧
    (∀ r, exec i u = .refused r → step s = .refused r)

/-- The end of an instruction: its cycles are counted, the micro states its accesses leave of them have NACT
(log 17), and either a pending halt stops the CPU whatever the
instruction, or the boundary is closed exactly after the instructions that are not interruptable and where
the instruction has stopped the CPU. Nothing else changes. That SDBD and HLT are among them is the spec's
own decision (92_eei_decisions.md D9, D10). -/
def Obligations.InstructionEnds : Prop :=
  ∀ s t : State, runInstruction s = .next t →
    ∃ u, exec s.fetch.1 s.fetch.2 = .next u ∧
      t.cycles = u.cycles + s.fetch.1.cycles s.fetch.2 ∧
      (s.haltPending = true → t.run = .stopped ∧ t.haltPending = false ∧ t.boundaryOpen = false) ∧
      (s.haltPending = false → t.run = u.run ∧ t.haltPending = u.haltPending ∧
        t.boundaryOpen = (!closesBoundary s.plat s.fetch.1 && decide (u.run = .running))) ∧
      t = { u with run := t.run, haltPending := t.haltPending, boundaryOpen := t.boundaryOpen, cycles := t.cycles,
                   events := List.replicate (s.fetch.1.idleStates s.fetch.2) .nact ++ u.events }

/-- An instruction has a next state exactly where the spec gives it a meaning, and otherwise is refused under
the name of a case it falls under: U1 for a data input in mode 000 or 110 after SDBD, U2 for what is no data input
after SDBD, U3 for MVO through its own stepped pointer, U4 for a jump with DE = 11. None faults. -/
def Obligations.RefusedExactlyWhereUnsupported : Prop :=
  ∀ (i : Instr) (s : State), i.WellFormed →
    ((∃ t, exec i s = .next t) ↔ i.supported s.dbl = true) ∧
    (∀ r, exec i s = .refused r →
      (r = .doubleByteModeNotSupported ∧ s.dbl = true ∧ isDirectOrStackInput i = true) ∨
      (r = .doubleByteNotForThisInstruction ∧ s.dbl = true ∧ isDataInput i = false) ∨
      (r = .moveOutOfOwnPointer ∧ i.storesOwnPointer = true) ∨
      (r = .jumpInterruptControl11 ∧ i.isUndefinedJump = true))

/-- Every step answers a next state, but where the instruction it fetches is one the spec refuses. -/
def Obligations.StepGoesOnUnlessUnsupported : Prop :=
  ∀ s : State, s.CanStep ↔
    ∀ u, s.attend = .fetch u → u.fetch.1.supported u.dbl = true

/-! Internal control -/

/-- CLRC (word 0x006) and SETC (0x007) write C alone and are not interruptable. -/
def Obligations.CarryInstructions : Prop :=
  ∀ s : State, s.dbl = false →
    exec .clrc s = .next { s with status := { s.status with c := false } } ∧
    exec .setc s = .next { s with status := { s.status with c := true } } ∧
    (∀ p, Instr.interruptable .clrc p = false ∧ Instr.interruptable .setc p = false) ∧
    (∀ dbl w2 w3, decode dbl 0x0006 w2 w3 = .clrc ∧ decode dbl 0x0007 w2 w3 = .setc)

/-- EIS sets and DIS clears the interrupt-enable flip-flop, and nothing else changes; no request is examined
between either of them and the instruction that follows it. -/
def Obligations.InterruptEnableInstructions : Prop :=
  ∀ s : State, s.dbl = false →
    exec .eis s = .next { s with intff := true } ∧
    exec .dis s = .next { s with intff := false } ∧
    (∀ p, Instr.interruptable .eis p = false ∧ Instr.interruptable .dis p = false)

/-- SDBD sets the double-byte-data flag and nothing else. -/
def Obligations.SdbdSetsDoubleByteFlag : Prop :=
  ∀ s : State, s.dbl = false → exec .sdbd s = .next { s with dbl := true }

/-- HLT makes a stop due after the next instruction, or stops the CPU at once, as HLT_AFTER_NEXT says
(92_eei_decisions.md D9). -/
def Obligations.HltMarksOrStops : Prop :=
  ∀ s : State, s.dbl = false →
    (s.plat.hltAfterNext = true → exec .hlt s = .next { s with haltPending := true }) ∧
    (s.plat.hltAfterNext = false → exec .hlt s = .next { s with run := .stopped })

/-- NOP changes nothing (the fetch has moved R7), whatever its bit 0; 6 cycles; interruptable. SIN and TCI put a
pulse on their pin and change nothing else. -/
def Obligations.NopSinTciChangeNoCpuState : Prop :=
  ∀ (n : Bool) (s : State), s.dbl = false →
    exec (.nop n) s = .next s ∧ (Instr.nop n).cycles s = 6 ∧ (∀ p, (Instr.nop n).interruptable p = true) ∧
    exec (.sin n) s = .next { s with events := .pcitPulse :: s.events } ∧
    exec .tci s = .next { s with events := .tciPulse :: s.events }

/-! Single register -/

/-- INCR, DECR and COMR: the register plus one, less one, or complemented, modulo 2^16; S and Z of the result;
C and OV unchanged; no other register and nothing else changes. Their words are 0000 001, 010 and 011 DDD. -/
def Obligations.IncrementDecrementComplement : Prop :=
  ∀ (d : Reg) (s : State), s.dbl = false →
    (∃ t, exec (.incr d) s = .next t ∧ (t.reg d).toNat = ((s.reg d).toNat + 1) % 65536 ∧
      LogicStatus (t.reg d) s.status t.status ∧ OnlyRegsStatus [d] s t) ∧
    (∃ t, exec (.decr d) s = .next t ∧ (t.reg d).toNat = ((s.reg d).toNat + 65535) % 65536 ∧
      LogicStatus (t.reg d) s.status t.status ∧ OnlyRegsStatus [d] s t) ∧
    (∃ t, exec (.comr d) s = .next t ∧ (t.reg d).toNat = 65535 - (s.reg d).toNat ∧
      LogicStatus (t.reg d) s.status t.status ∧ OnlyRegsStatus [d] s t) ∧
    (∀ dbl w2 w3, decode dbl (withReg 0b001000 d) w2 w3 = .incr d ∧
      decode dbl (withReg 0b010000 d) w2 w3 = .decr d ∧ decode dbl (withReg 0b011000 d) w2 w3 = .comr d)

/-- NEGR is the difference 0 - x and ADCR the sum x + 0 + C, with all four status bits. The flag formulas are
the spec's decision (92_eei_decisions.md D6). -/
def Obligations.NegateAndAddCarry : Prop :=
  ∀ (d : Reg) (s : State), s.dbl = false →
    (∃ t, exec (.negr d) s = .next t ∧ DifferenceOf 0 (s.reg d) (t.reg d) t.status ∧ OnlyRegsStatus [d] s t) ∧
    (∃ t, exec (.adcr d) s = .next t ∧ SumOf (s.reg d) 0 s.status.c (t.reg d) t.status ∧ OnlyRegsStatus [d] s t)

/-- GSWD: bits 0-3 and 8-11 are 0; bits 4, 12 = C; 5, 13 = OV; 6, 14 = Z; 7, 15 = S. No status bit changes. It
names R0 to R3 only: the register field values 4 to 7 are NOP and SIN. -/
def Obligations.GswdBuildsStatusWord : Prop :=
  (∀ (d : Reg) (s : State), s.dbl = false →
    ∃ t, exec (.gswd d) s = .next t ∧ OnlyRegs [d] s t ∧
      ∀ k, k < 16 → (t.reg d).getLsbD k =
        (if k = 4 ∨ k = 12 then s.status.c else if k = 5 ∨ k = 13 then s.status.ov
         else if k = 6 ∨ k = 14 then s.status.z else if k = 7 ∨ k = 15 then s.status.s else false)) ∧
  (∀ d : Reg, (Instr.gswd d).WellFormed ↔ d = .r0 ∨ d = .r1 ∨ d = .r2 ∨ d = .r3) ∧
  (∀ d : Reg, (Instr.gswd d).WellFormed → ∀ dbl w2 w3, decode dbl (withReg 0b110000 d) w2 w3 = .gswd d) ∧
  (∀ dbl w2 w3, decode dbl 0x0034 w2 w3 = .nop false ∧ decode dbl 0x0035 w2 w3 = .nop true ∧
    decode dbl 0x0036 w2 w3 = .sin false ∧ decode dbl 0x0037 w2 w3 = .sin true)

/-- RSWD (words 0000 111 SSS) takes bit 4 to C, bit 5 to OV, bit 6 to Z and bit 7 to S from any register; the
register, INTFF and everything else keep their values. -/
def Obligations.RswdRestoresStatus : Prop :=
  ∀ (src : Reg) (s : State), s.dbl = false →
    exec (.rswd src) s = .next { s with status :=
      { c := (s.reg src).getLsbD 4, ov := (s.reg src).getLsbD 5,
        z := (s.reg src).getLsbD 6, s := (s.reg src).getLsbD 7 } } ∧
    (∀ dbl w2 w3, decode dbl (withReg 0b111000 src) w2 w3 = .rswd src)

/-- A status word saved by GSWD is the status that RSWD restores, whatever the status bits are by then. -/
def Obligations.SavedStatusIsRestored : Prop :=
  ∀ (d : Reg) (s t : State) (other : Status), exec (.gswd d) s = .next t →
    exec (.rswd d) { t with status := other } = .next t

/-! Register to register -/

/-- MOVR, TSTR and JR: the contents move, S and Z are of the value moved, C and OV keep theirs; TSTR is MOVR of a
register to itself and JR is MOVR to R7, in words and in effect; 6 cycles, 7 when the destination is R6 or R7. -/
def Obligations.MoveTestAndJumpRegister : Prop :=
  ∀ (src d : Reg) (s : State), s.dbl = false →
    (∃ t, exec (.movr src d) s = .next t ∧ t.reg d = s.reg src ∧
      LogicStatus (s.reg src) s.status t.status ∧ OnlyRegsStatus [d] s t) ∧
    (∃ t, exec (.tstr src) s = .next t ∧ LogicStatus (s.reg src) s.status t.status ∧ OnlyRegsStatus [] s t) ∧
    (∃ t, exec (.jr src) s = .next t ∧ t.reg .r7 = s.reg src ∧
      LogicStatus (s.reg src) s.status t.status ∧ OnlyRegsStatus [.r7] s t) ∧
    (Instr.movr src d).cycles s = (if d = .r6 ∨ d = .r7 then 7 else 6) ∧
    (Instr.tstr src).cycles s = (if src = .r6 ∨ src = .r7 then 7 else 6) ∧ (Instr.jr src).cycles s = 7 ∧
    (∀ dbl, encode dbl (.tstr src) = encode dbl (.movr src src) ∧ encode dbl (.jr src) = encode dbl (.movr src .r7)) ∧
    (∀ dbl w2 w3, decode dbl (withRegs 0b0010000000 src d) w2 w3 = .movr src d)

/-- ANDR, XORR and CLRR: the bitwise result in the destination, S and Z of it, C and OV unchanged, nothing else
changes; CLRR leaves 0 with S = 0 and Z = 1; 6 cycles. -/
def Obligations.LogicRegisters : Prop :=
  ∀ (src d : Reg) (s : State), s.dbl = false →
    (∃ t, exec (.andr src d) s = .next t ∧
      (∀ k, k < 16 → (t.reg d).getLsbD k = ((s.reg d).getLsbD k && (s.reg src).getLsbD k)) ∧
      LogicStatus (t.reg d) s.status t.status ∧ OnlyRegsStatus [d] s t) ∧
    (∃ t, exec (.xorr src d) s = .next t ∧
      (∀ k, k < 16 → (t.reg d).getLsbD k = ((s.reg d).getLsbD k != (s.reg src).getLsbD k)) ∧
      LogicStatus (t.reg d) s.status t.status ∧ OnlyRegsStatus [d] s t) ∧
    (∃ t, exec (.clrr d) s = .next t ∧ t.reg d = 0 ∧
      t.status = { s.status with s := false, z := true } ∧ OnlyRegsStatus [d] s t) ∧
    (Instr.andr src d).cycles s = 6 ∧ (Instr.xorr src d).cycles s = 6 ∧ (Instr.clrr d).cycles s = 6 ∧
    (∀ dbl, encode dbl (.clrr d) = encode dbl (.xorr d d)) ∧
    (∀ dbl w2 w3, decode dbl (withRegs 0b0110000000 src d) w2 w3 = .andr src d ∧
      decode dbl (withRegs 0b0111000000 src d) w2 w3 = .xorr src d)

/-- ADDR: the sum of both registers in the destination with all four status bits; a register may be added to
itself. The exact carry and overflow are the spec's decision (92_eei_decisions.md D6). -/
def Obligations.AddRegisters : Prop :=
  ∀ (src d : Reg) (s : State), s.dbl = false →
    ∃ t, exec (.addr src d) s = .next t ∧ SumOf (s.reg d) (s.reg src) false (t.reg d) t.status ∧
      OnlyRegsStatus [d] s t

/-- SUBR: destination less source, with all four status bits. CMPR: the status bits of the same difference and no
register written. The operand order of CMPR and the flags are the spec's decision (92_eei_decisions.md D6). -/
def Obligations.SubtractAndCompareRegisters : Prop :=
  ∀ (src d : Reg) (s : State), s.dbl = false →
    (∃ t, exec (.subr src d) s = .next t ∧ DifferenceOf (s.reg d) (s.reg src) (t.reg d) t.status ∧
      OnlyRegsStatus [d] s t) ∧
    (∃ t, exec (.cmpr src d) s = .next t ∧
      DifferenceOf (s.reg d) (s.reg src) (s.reg d - s.reg src) t.status ∧ OnlyRegsStatus [] s t)

/-- After a compare of two registers the branches mean what their names say: BC is taken when the register is at
least the other unsigned, BLT when it is less signed, BLE when it is less or equal signed, BZE when they are
equal, and BNC, BGE, BGT, BNZE in the other cases. The program counter of the branch is any. -/
def Obligations.CompareThenBranch : Prop :=
  ∀ (src d : Reg) (s t : State) (pc disp : Word) (dir : Dir), exec (.cmpr src d) s = .next t →
    let u := { t with regs := t.regs.set .r7 pc }
    let a := s.reg d
    let b := s.reg src
    exec (.bc dir disp) u = .next (afterBranch (decide (b.toNat ≤ a.toNat)) dir disp u) ∧
    exec (.bnc dir disp) u = .next (afterBranch (decide (a.toNat < b.toNat)) dir disp u) ∧
    exec (.blt dir disp) u = .next (afterBranch (decide (a.toInt < b.toInt)) dir disp u) ∧
    exec (.bge dir disp) u = .next (afterBranch (decide (b.toInt ≤ a.toInt)) dir disp u) ∧
    exec (.ble dir disp) u = .next (afterBranch (decide (a.toInt ≤ b.toInt)) dir disp u) ∧
    exec (.bgt dir disp) u = .next (afterBranch (decide (b.toInt < a.toInt)) dir disp u) ∧
    exec (.bze dir disp) u = .next (afterBranch (decide (a = b)) dir disp u) ∧
    exec (.bnze dir disp) u = .next (afterBranch (decide (a ≠ b)) dir disp u)

/-! Shifts -/

/-- The left shifts as arithmetic on the register with its link bits. SLL doubles or quadruples, losing what leaves
the register; SLLC puts what leaves into C, or C and OV; RLC does too and brings the old link in below. The
bit-level semantics is the spec's, from general knowledge (93_implementation_defined.md G1; log 24). -/
def Obligations.LeftShifts : Prop :=
  ∀ (r : Reg) (s : State), s.dbl = false →
    (∃ t, exec (.sll r .one) s = .next t ∧ (t.reg r).toNat = 2 * (s.reg r).toNat % 65536 ∧
      LogicStatus (t.reg r) s.status t.status ∧ OnlyRegsStatus [r] s t) ∧
    (∃ t, exec (.sll r .two) s = .next t ∧ (t.reg r).toNat = 4 * (s.reg r).toNat % 65536 ∧
      LogicStatus (t.reg r) s.status t.status ∧ OnlyRegsStatus [r] s t) ∧
    (∃ t, exec (.sllc r .one) s = .next t ∧
      t.status.c.toNat * 65536 + (t.reg r).toNat = 2 * (s.reg r).toNat ∧
      t.status.ov = s.status.ov ∧ SignZero (t.reg r) t.status ∧ OnlyRegsStatus [r] s t) ∧
    (∃ t, exec (.sllc r .two) s = .next t ∧
      (2 * t.status.c.toNat + t.status.ov.toNat) * 65536 + (t.reg r).toNat = 4 * (s.reg r).toNat ∧
      SignZero (t.reg r) t.status ∧ OnlyRegsStatus [r] s t) ∧
    (∃ t, exec (.rlc r .one) s = .next t ∧
      t.status.c.toNat * 65536 + (t.reg r).toNat = 2 * (s.reg r).toNat + s.status.c.toNat ∧
      t.status.ov = s.status.ov ∧ SignZero (t.reg r) t.status ∧ OnlyRegsStatus [r] s t) ∧
    (∃ t, exec (.rlc r .two) s = .next t ∧
      (2 * t.status.c.toNat + t.status.ov.toNat) * 65536 + (t.reg r).toNat =
        4 * (s.reg r).toNat + 2 * s.status.c.toNat + s.status.ov.toNat ∧
      SignZero (t.reg r) t.status ∧ OnlyRegsStatus [r] s t)

/-- The right shifts and SWAP as arithmetic. SLR divides, SAR divides the signed value rounding down; SARC and RRC
put what leaves into C, or C and OV, and RRC brings the old link in above; SWAP exchanges the bytes or doubles the
low one. S is the result bit RSHIFT_S_BIT names, Z of the whole result. The bit-level semantics is the spec's,
from general knowledge (93_implementation_defined.md G1; log 24), and so is the S bit (92_eei_decisions.md D21). -/
def Obligations.RightShiftsAndSwap : Prop :=
  ∀ (r : Reg) (s : State), s.dbl = false →
    let v := (s.reg r).toNat
    let sz := fun t : State =>
      t.status.s = (t.reg r).getLsbD (if s.plat.shiftSBit = .bit7 then 7 else 15) ∧
      t.status.z = decide (t.reg r = 0) ∧ OnlyRegsStatus [r] s t
    let keepsLink := fun t : State => t.status.c = s.status.c ∧ t.status.ov = s.status.ov
    (∃ t, exec (.slr r .one) s = .next t ∧ (t.reg r).toNat = v / 2 ∧ keepsLink t ∧ sz t) ∧
    (∃ t, exec (.slr r .two) s = .next t ∧ (t.reg r).toNat = v / 4 ∧ keepsLink t ∧ sz t) ∧
    (∃ t, exec (.sar r .one) s = .next t ∧ (t.reg r).toInt = (s.reg r).toInt / 2 ∧ keepsLink t ∧ sz t) ∧
    (∃ t, exec (.sar r .two) s = .next t ∧ (t.reg r).toInt = (s.reg r).toInt / 4 ∧ keepsLink t ∧ sz t) ∧
    (∃ t, exec (.sarc r .one) s = .next t ∧ (t.reg r).toInt = (s.reg r).toInt / 2 ∧
      t.status.c.toNat = v % 2 ∧ t.status.ov = s.status.ov ∧ sz t) ∧
    (∃ t, exec (.sarc r .two) s = .next t ∧ (t.reg r).toInt = (s.reg r).toInt / 4 ∧
      2 * t.status.ov.toNat + t.status.c.toNat = v % 4 ∧ sz t) ∧
    (∃ t, exec (.rrc r .one) s = .next t ∧
      2 * (t.reg r).toNat + t.status.c.toNat = s.status.c.toNat * 65536 + v ∧
      t.status.ov = s.status.ov ∧ sz t) ∧
    (∃ t, exec (.rrc r .two) s = .next t ∧
      4 * (t.reg r).toNat + 2 * t.status.ov.toNat + t.status.c.toNat =
        (2 * s.status.ov.toNat + s.status.c.toNat) * 65536 + v ∧ sz t) ∧
    (∃ t, exec (.swap r .one) s = .next t ∧ (t.reg r).toNat = v % 256 * 256 + v / 256 ∧ keepsLink t ∧ sz t) ∧
    (∃ t, exec (.swap r .two) s = .next t ∧ (t.reg r).toNat = v % 256 * 257 ∧ keepsLink t ∧ sz t)

/-! Jumps -/

/-- J, JE and JD set the program counter to the address, and INTFF is kept, set or cleared; no return address is
saved and no status bit, register or word of memory changes; 12 cycles. -/
def Obligations.Jumps : Prop :=
  ∀ (a : Word) (s : State), s.dbl = false →
    exec (.j a) s = .next { s with regs := s.regs.set .r7 a } ∧
    exec (.je a) s = .next { s with regs := s.regs.set .r7 a, intff := true } ∧
    exec (.jd a) s = .next { s with regs := s.regs.set .r7 a, intff := false } ∧
    (Instr.j a).cycles s = 12 ∧ (Instr.je a).cycles s = 12 ∧ (Instr.jd a).cycles s = 12 ∧
    (∀ dbl, encode dbl (.j a) = jumpWords 3 a 0 ∧ encode dbl (.je a) = jumpWords 3 a 1 ∧
      encode dbl (.jd a) = jumpWords 3 a 2)

/-- JSR, JSRE and JSRD put the program counter, which stands at PC0 + 3 after the fetch, into the link register and
the address into the program counter; INTFF is kept, set or cleared. Nothing is pushed: memory, the status
bits and every other register keep their values. -/
def Obligations.JumpsSaveReturn : Prop :=
  ∀ (link : Reg) (a : Word) (s : State), (Instr.jsr link a).WellFormed → s.dbl = false →
    (∃ t, exec (.jsr link a) s = .next t ∧ t.reg link = s.reg .r7 ∧ t.reg .r7 = a ∧ OnlyRegs [link, .r7] s t) ∧
    (∃ t, exec (.jsre link a) s = .next t ∧ t.reg link = s.reg .r7 ∧ t.reg .r7 = a ∧
      t.intff = true ∧ OnlyRegs [link, .r7] { s with intff := true } t) ∧
    (∃ t, exec (.jsrd link a) s = .next t ∧ t.reg link = s.reg .r7 ∧ t.reg .r7 = a ∧
      t.intff = false ∧ OnlyRegs [link, .r7] { s with intff := false } t) ∧
    (∀ dbl, encode dbl (.jsr link a) = jumpWords (link.num.toNat - 4) a 0 ∧
      encode dbl (.jsre link a) = jumpWords (link.num.toNat - 4) a 1 ∧
      encode dbl (.jsrd link a) = jumpWords (link.num.toNat - 4) a 2)

/-- The jump words with DE = 11 are refused under their own name: the spec gives them no meaning
(92_eei_decisions.md D14). -/
def Obligations.UndefinedJumpRefused : Prop :=
  ∀ (bb : BitVec 2) (a : Word) (s : State), s.dbl = false →
    exec (.undefJumpDe11 bb a) s = .refused .jumpInterruptControl11

/-! Branches -/

/-- Each internal branch: its words decode to it, and it is taken exactly when its condition holds, forward by the
displacement or backward by one more than it, from the address after both words; R7 alone may change. B is always
9 cycles and NOPP always 7. -/
def Obligations.InternalBranches : Prop :=
  (∀ c instr cond, (c, instr, cond) ∈ internalBranches →
    (∀ (dbl : Bool) (dir : Dir) (disp w3 : Word), decode dbl (branchWord dir c) disp w3 = instr dir disp) ∧
    (∀ (dir : Dir) (disp : Word) (s : State), s.dbl = false →
      exec (instr dir disp) s = .next (afterBranch (cond s.status) dir disp s) ∧
      (instr dir disp).cycles s = (if cond s.status then 9 else 7)))

/-- BLGT, BLLT, BEQ and BNEQ branch on C = 1, C = 0, Z = 1 and Z = 0. -/
def Obligations.SecondNameBranches : Prop :=
  ∀ instr cond, (instr, cond) ∈ secondNameBranches →
    ∀ (dir : Dir) (disp : Word) (s : State), s.dbl = false →
      exec (instr dir disp) s = .next (afterBranch (cond s.status) dir disp s)

/-- BEXT: the selector is on EBCA, and the branch is taken exactly when the external condition of that number reads
1; where the sample of the pins does not state it, the answer is a free value. Nothing but R7, the event log
and the count of consultations changes. -/
def Obligations.ExternalBranch : Prop :=
  ∀ (dir : Dir) (disp : Word) (e : BitVec 4) (s : State), s.dbl = false →
    let after := fun taken => { afterBranch taken dir disp s with
      events := .select e :: s.events, oracle := s.oracle + 1 }
    (∀ levels, s.pins.conditions = some levels →
      exec (.bext dir disp e) s = .next (after (levels.getLsbD e.toNat))) ∧
    (s.pins.conditions = none → exec (.bext dir disp e) s = .next (after (Config.ebci s.oracle e)))

/-! Input instructions -/

/-- MVI, MVII and MVI@ put the operand, found by the mode and the flag D, into the register. No status bit changes.
That the register is written last, so that the mode's update of the same register is lost (MVI@ R4,R4), is the spec's
own decision (92_eei_decisions.md D7, 40_external_reference.md section 2). -/
def Obligations.MoveInLoadsOperand : Prop :=
  ∀ (f : InputForm) (d : Reg) (s u : State) (v : Word), operandOf s f = some (v, u) →
    ∃ t, exec (f.instr .mvi .mvii .mviAt d) s = .next t ∧ t.reg d = v ∧ OnlyRegs [d] u t

/-- PULR: R6 is decremented, then the word it points to is put into the register, which may be R6; no status bit
changes; 11 cycles; the same words as MVI@ R6. -/
def Obligations.PulrPullsFromStack : Prop :=
  ∀ (d : Reg) (s : State), s.dbl = false →
    (∃ t, exec (.pulr d) s = .next t ∧ t.reg d = s.busValue (s.reg .r6 - 1) ∧
      (d ≠ .r6 → t.reg .r6 = s.reg .r6 - 1) ∧
      OnlyRegs [d, .r6] (afterRead s (s.reg .r6 - 1)) t) ∧
    (Instr.pulr d).cycles s = 11 ∧ (∀ dbl, encode dbl (.pulr d) = encode dbl (.mviAt .r6 d))

/-- ADD, ADDI and ADD@: the sum of the register, read after the mode's update, and the operand, with all four status
bits. The exact carry and overflow are the spec's decision (92_eei_decisions.md D6), and so is the order, update first,
where the register is the pointer of the mode (ADD@ R4,R4; D7, 40_external_reference.md section 2). -/
def Obligations.AddOperand : Prop :=
  ∀ (f : InputForm) (d : Reg) (s u : State) (v : Word), operandOf s f = some (v, u) →
    ∃ t, exec (f.instr .add .addi .addAt d) s = .next t ∧ SumOf (u.reg d) v false (t.reg d) t.status ∧
      OnlyRegsStatus [d] u t

/-- SUB, SUBI and SUB@: the register, read after the mode's update, less the operand, with all four status bits
(flags: 92_eei_decisions.md D6). The order, update first, where the register is the pointer of the mode (SUB@ R4,R4) is
the spec's decision D7 (40_external_reference.md section 2). -/
def Obligations.SubtractOperand : Prop :=
  ∀ (f : InputForm) (d : Reg) (s u : State) (v : Word), operandOf s f = some (v, u) →
    ∃ t, exec (f.instr .sub .subi .subAt d) s = .next t ∧ DifferenceOf (u.reg d) v (t.reg d) t.status ∧
      OnlyRegsStatus [d] u t

/-- CMP, CMPI and CMP@: the status bits of the register, read after the mode's update, less the operand; the register
is not written, the mode's update of its pointer still happens (flags: 92_eei_decisions.md D6). The order, update first,
where the register is the pointer of the mode (CMP@ R6,R6) is the spec's decision D7 (40_external_reference.md
section 2). -/
def Obligations.CompareOperand : Prop :=
  ∀ (f : InputForm) (d : Reg) (s u : State) (v : Word), operandOf s f = some (v, u) →
    ∃ t, exec (f.instr .cmp .cmpi .cmpAt d) s = .next t ∧
      DifferenceOf (u.reg d) v (u.reg d - v) t.status ∧ OnlyRegsStatus [] u t

/-- AND, ANDI, AND@, XOR, XORI and XOR@: the bitwise result of the register, read after the mode's update, and the
operand, with S and Z of it; C and OV keep their values. The order, update first, where the register is the pointer of
the mode (AND@ R4,R4) is the spec's decision (92_eei_decisions.md D7, 40_external_reference.md section 2). -/
def Obligations.LogicOperand : Prop :=
  ∀ (f : InputForm) (d : Reg) (s u : State) (v : Word), operandOf s f = some (v, u) →
    (∃ t, exec (f.instr .and .andi .andAt d) s = .next t ∧
      (∀ k, k < 16 → (t.reg d).getLsbD k = ((u.reg d).getLsbD k && v.getLsbD k)) ∧
      LogicStatus (t.reg d) u.status t.status ∧ OnlyRegsStatus [d] u t) ∧
    (∃ t, exec (f.instr .xor .xori .xorAt d) s = .next t ∧
      (∀ k, k < 16 → (t.reg d).getLsbD k = ((u.reg d).getLsbD k != v.getLsbD k)) ∧
      LogicStatus (t.reg d) u.status t.status ∧ OnlyRegsStatus [d] u t)

/-! Output instructions -/

/-- MVO and MVO@ (R1 to R6): the register goes to the direct address, or to the address in the pointer, which R4, R5
and R6 then have stepped; the register is read after that update. MVO@ of R4, R5 or R6 through itself is not
among them. -/
def Obligations.MoveOutStores : Prop :=
  (∀ (src : Reg) (a : Word) (s : State), s.dbl = false →
    ∃ t, exec (.mvo src a) s = .next t ∧ StoredAt a (s.reg src) s t) ∧
  (∀ (src m : Reg) (s : State), (Instr.mvoAt src m).WellFormed → s.dbl = false →
    ¬(src = m ∧ (m = .r4 ∨ m = .r5 ∨ m = .r6)) →
    ∃ t, exec (.mvoAt src m) s = .next t ∧
      StoredAt (s.reg m) (s.reg src) (addressed (s.reg m) (afterOutputAddress s m)) t)

/-- MVOI stores the register over the second word of the instruction itself, at the program counter, and steps the
program counter past it; MVOI R7 is not among them. -/
def Obligations.MvoiStoresIntoItself : Prop :=
  ∀ (src : Reg) (s : State), s.dbl = false → src ≠ .r7 →
    ∃ t, exec (.mvoi src) s = .next t ∧
      StoredAt (s.reg .r7) (s.reg src) (addressed (s.reg .r7) { s with regs := s.regs.set .r7 (s.reg .r7 + 1) }) t

/-- PSHR stores the register where R6 points, then adds 1 to R6, in 9 cycles, as MVO@ through R6 does; no status bit
changes; PSHR R6 is refused, which is the spec's decision (92_eei_decisions.md D15; 93_implementation_defined.md
U3). -/
def Obligations.PshrPushesOnStack : Prop :=
  (∀ (src : Reg) (s : State), s.dbl = false → src ≠ .r6 →
    (∃ t, exec (.pshr src) s = .next t ∧
      StoredAt (s.reg .r6) (s.reg src) (addressed (s.reg .r6) { s with regs := s.regs.set .r6 (s.reg .r6 + 1) }) t) ∧
    (Instr.pshr src).cycles s = 9 ∧ (∀ dbl, encode dbl (.pshr src) = encode dbl (.mvoAt src .r6))) ∧
  (∀ s : State, s.dbl = false → exec (.pshr .r6) s = .refused .moveOutOfOwnPointer)

/-- What PSHR pushes, PULR pulls: the stack pointer is back where it was and the other register holds the pushed
one. Stated for memory that is plain at the stack pointer. -/
def Obligations.PushThenPull : Prop :=
  ∀ (src d : Reg) (s t : State), s.mem.wf = true → PlainMemory s → src ≠ .r6 → d ≠ .r6 →
    exec (.pshr src) s = .next t →
    ∃ u, exec (.pulr d) t = .next u ∧ u.reg d = s.reg src ∧ u.reg .r6 = s.reg .r6 ∧
      ∀ r, r ≠ d → u.reg r = s.reg r

/-- What MVI reads. Read/write memory and ROM answer with their word: the bits they have room for, and free values
on the lines they do not drive; a device and an empty address answer with a free value. After MVO to an address,
read/write memory there answers with as much of the stored register as it has room for; ROM, there and anywhere,
and every other address of memory answer with the word they had. In plain memory that is the whole word. -/
def Obligations.StoreThenLoad : Prop :=
  (∀ (b : Word) (d : Reg) (s : State), s.dbl = false → ∃ u, exec (.mvi b d) s = .next u ∧
    (s.plat.kindOf b = .ram ∨ s.plat.kindOf b = .rom → Drives s.plat b (s.mem.readWord b) (u.reg d)) ∧
    (s.plat.kindOf b = .device ∨ s.plat.kindOf b = .nothing → u.reg d = Config.busWord s.oracle)) ∧
  (∀ (src d : Reg) (a b : Word) (s t : State), s.mem.wf = true → exec (.mvo src a) s = .next t →
    ∃ u, exec (.mvi b d) t = .next u ∧
      (b = a → s.plat.kindOf b = .ram → Drives s.plat b (s.reg src) (u.reg d)) ∧
      (b ≠ a → s.plat.kindOf b = .ram → Drives s.plat b (s.mem.readWord b) (u.reg d)) ∧
      (s.plat.kindOf b = .rom → Drives s.plat b (s.mem.readWord b) (u.reg d)) ∧
      (PlainMemory s → u.reg d = (if b = a then s.reg src else s.mem.readWord b)))

/-! Interrupts, stops, grants -/

/-- At an interruptable boundary, with the CPU running, the bus its own, and no MSYNC*, stop or bus request, the interrupt
sequence is performed if INTR* is asserted, or INTRM* is and INTFF is 1, and otherwise the next instruction
is fetched. -/
def Obligations.InterruptAcceptance : Prop :=
  ∀ (s : State) (p : Pins) (rest : List Pins), s.env = p :: rest → s.run = .running → s.boundaryOpen = true →
    s.busReleased = false → s.syncLow = false → s.haltPending = false → s.stopPending = false →
    p.msync = false → p.stpst = false → p.busrq = false →
    let u := { s with pins := p, env := rest }
    (((p.intr = true ∨ (p.intrm = true ∧ s.intff = true)) → step s = .next u.takeInterrupt) ∧
     (¬(p.intr = true ∨ (p.intrm = true ∧ s.intff = true)) → step s = runInstruction u))

/-- The interrupt sequence: INTAK with the stack pointer, the program counter stored where R6 points (DW, DWS; as
much of it as read/write memory there has room for, and nothing where there is none), R6 stepped, the vector from
the bus into R7 under IAB, then the fetch. Nothing else changes; that INTFF does not is the spec's decision
(92_eei_decisions.md D12). That the sequence shows these four codes and no NACT between or after them is the model's
choice (log 17): the spec does not give its length. -/
def Obligations.InterruptSequence : Prop :=
  ∀ s : State,
    let t := s.takeInterrupt
    let sp := s.reg .r6
    t.reg .r7 = s.pins.vector ∧ t.reg .r6 = sp + 1 ∧ KeepsRegsBut [.r6, .r7] s t ∧
    StoredWord sp (s.reg .r7) s t ∧
    (s.mem.wf = true → s.plat.kindOf sp = .ram → 16 ≤ s.plat.widthOf sp → t.mem.readWord sp = s.reg .r7) ∧
    t = { s with regs := t.regs, mem := t.mem, boundaryOpen := false,
                 events := .iab s.pins.vector :: .dws (s.reg .r7) :: .dw (s.reg .r7) :: .intak sp :: s.events }

/-- PULR PC at the end of a service routine that has the stack pointer where the interrupt left it returns to the
instruction the interrupt came before, with the stack pointer back; status, INTFF and the other registers are
as the routine leaves them. -/
def Obligations.InterruptThenReturn : Prop :=
  ∀ (s r : State), s.mem.wf = true → PlainMemory s →
    r.reg .r6 = s.takeInterrupt.reg .r6 → r.mem.readWord (s.reg .r6) = s.takeInterrupt.mem.readWord (s.reg .r6) →
    r.plat = s.plat → r.dbl = false →
    ∃ t, exec (.pulr .r7) r = .next t ∧ t.reg .r7 = s.reg .r7 ∧ t.reg .r6 = s.reg .r6 ∧
      KeepsRegsBut [.r6, .r7] r t ∧ t.status = r.status ∧ t.intff = r.intff ∧ t.mem = r.mem

/-- At a closed boundary no interrupt, bus or stop request is answered: whatever the sample asserts short of MSYNC*,
the next instruction is fetched. A stop edge that comes is recorded (92_eei_decisions.md D24); that a second edge
before the first has acted changes nothing is the model's choice (log 14). -/
def Obligations.ClosedBoundaryGoesOn : Prop :=
  ∀ (s : State) (p : Pins) (rest : List Pins), s.env = p :: rest → s.run = .running → s.boundaryOpen = false →
    s.busReleased = false → s.syncLow = false → p.msync = false →
    step s = runInstruction { s with pins := p, env := rest, stopPending := s.stopPending || p.stpst }

/-- At an open boundary a recorded stop edge stops the CPU before a bus request or an interrupt is looked at, with every
register, flag and word of memory as it was. In the stopped mode nothing is fetched and no request is answered, and
the bus has NACT; only a stop edge (to the run mode, with the fetch next) and MSYNC* leave it; without a sample the
CPU stays as it is (92_eei_decisions.md D24, D28; log 14, log 15). -/
def Obligations.StopAndStoppedMode : Prop :=
  (∀ (s : State) (p : Pins) (rest : List Pins), s.env = p :: rest → s.run = .running → s.boundaryOpen = true →
    s.busReleased = false → s.syncLow = false → s.haltPending = false → p.msync = false → (s.stopPending = true ∨ p.stpst = true) →
    step s = .next { s with pins := p, env := rest, stopPending := false, run := .stopped, boundaryOpen := false,
                            events := .nact :: s.events }) ∧
  (∀ (s : State) (p : Pins) (rest : List Pins), s.env = p :: rest → s.run = .stopped → s.syncLow = false →
    p.msync = false →
    (p.stpst = false → step s = .next { s with pins := p, env := rest, events := .nact :: s.events }) ∧
    (p.stpst = true → step s = .next { s with pins := p, env := rest, run := .running, boundaryOpen := false,
                                               events := .nact :: s.events })) ∧
  (∀ s : State, s.run = .stopped → s.syncLow = false → s.env = [] → step s = .next { s with pins := .quiet, events := .nact :: s.events })

/-- A bus request at an open boundary, with no stop to come first, is answered before an interrupt: the bus is released
with NACT on it, and while BUSRQ* stays low the CPU changes nothing of its own, but that a stop edge is recorded for
the boundary after the grant; memory changes by the other masters' writes only, and each of them lands: the last one to
an address of read/write memory is what is there, as far as it has room. When BUSRQ* is high again the boundary is
examined anew with the bus back. The model's choices: one NACT for each sample of the grant (log 17); the writes of the
other masters, which the spec leaves arbitrary, are those the sample lists, made in order through the same map and
widths as the CPU's (log 22). -/
def Obligations.BusGrantBeforeInterrupt : Prop :=
  (∀ (s : State) (p : Pins) (rest : List Pins), s.env = p :: rest → s.run = .running → s.boundaryOpen = true →
    s.syncLow = false → p.msync = false → p.busrq = true →
    (s.busReleased = true ∨ (p.stpst = false ∧ s.haltPending = false ∧ s.stopPending = false)) →
    ∃ t, step s = .next t ∧
      t = { s with pins := p, env := rest, busReleased := true, stopPending := s.stopPending || p.stpst, mem := t.mem,
                   events := .nact :: s.events } ∧
      (∀ (earlier later : List (Word × Word)) (a v : Word), p.dma = earlier ++ (a, v) :: later →
        (∀ w ∈ later, w.1 ≠ a) → s.mem.wf = true → s.plat.kindOf a = .ram →
        (t.mem.readWord a).toNat = v.toNat % 2 ^ (min 16 (s.plat.widthOf a))) ∧
      (∀ a, s.plat.kindOf a ≠ .ram → t.mem.readWord a = s.mem.readWord a) ∧
      (∀ k, (∀ w ∈ p.dma, k ≠ 2 * w.1.toNat ∧ k ≠ 2 * w.1.toNat + 1) → t.mem.readByte k = s.mem.readByte k) ∧
      (p.dma = [] → t.mem = s.mem)) ∧
  (∀ (s : State) (p : Pins) (rest : List Pins), s.env = p :: rest → s.run = .running → s.boundaryOpen = true →
    s.busReleased = true → p.msync = false → p.busrq = false →
    step s = step { s with busReleased := false })

/-! What every instruction leaves alone -/

/-- No instruction writes a status bit that the table of status changes leaves blank for it, and between instructions
only the initialization after a low MSYNC* writes any. -/
def Obligations.StatusBitsWrittenOnlyByTable : Prop :=
  (∀ (i : Instr) (s t : State), exec i s = .next t →
    ((statusWrites i).1 = false → t.status.s = s.status.s) ∧
    ((statusWrites i).2.1 = false → t.status.z = s.status.z) ∧
    ((statusWrites i).2.2.1 = false → t.status.c = s.status.c) ∧
    ((statusWrites i).2.2.2 = false → t.status.ov = s.status.ov)) ∧
  (∀ s t : State, s.attend = .acted t → s.syncLow = false → (s.env.headD .quiet).msync = false → t.status = s.status)

/-- INTFF is set by EIS, JE and JSRE and cleared by DIS, JD and JSRD; no other instruction writes it, and between
instructions only a low MSYNC* and the initialization after it do (92_eei_decisions.md D12). -/
def Obligations.InterruptEnableWrittenOnlyBy : Prop :=
  (∀ (i : Instr) (s t : State), exec i s = .next t →
    t.intff = (match i with
      | .eis | .je _ | .jsre _ _ => true
      | .dis | .jd _ | .jsrd _ _ => false
      | _ => s.intff)) ∧
  (∀ s t : State, s.attend = .acted t → s.syncLow = false → (s.env.headD .quiet).msync = false → t.intff = s.intff)

/-- After any instruction the double-byte-data flag is 1 exactly when the instruction was SDBD
(92_eei_decisions.md D11). -/
def Obligations.DoubleByteFlagConsumed : Prop :=
  ∀ (i : Instr) (s t : State), exec i s = .next t → t.dbl = decide (i = .sdbd)

/-- No instruction changes a register but those it names as destination, the pointer its mode steps, the link register
of a jump, and R7 for a transfer of control. -/
def Obligations.RegistersWrittenOnlyByName : Prop :=
  ∀ (i : Instr) (s t : State), i.WellFormed → exec i s = .next t → KeepsRegsBut (registersWritten i) s t

/-- No instruction changes a cell of memory but those of the word it stores to; an instruction that stores nothing
leaves all of memory as it was. -/
def Obligations.MemoryWrittenOnlyByMoveOut : Prop :=
  ∀ (i : Instr) (s t : State), exec i s = .next t →
    (storeAddress s i = none → t.mem = s.mem) ∧
    (∀ ea, storeAddress s i = some ea →
      ∀ k, k ≠ 2 * ea.toNat → k ≠ 2 * ea.toNat + 1 → t.mem.readByte k = s.mem.readByte k)

/-- The bus accesses of an instruction after its fetch are exactly those of the table of accesses, in its order, with
the bus control codes of their primitives; besides them TCI, SIN and BEXT put out their signal. The direct forms
need no BAR, their address being in the address register (log 17). With its fetch and its end, a bus control code goes
out in every cycle of the instruction: as many as the table of cycle counts gives it. -/
def Obligations.BusAccessesOfEachInstruction : Prop :=
  (∀ (i : Instr) (s t : State), i.WellFormed → exec i s = .next t → t.events = eventsOf s i ++ s.events) ∧
  (∀ s t : State, runInstruction s = .next t →
    microStates t.events + s.cycles = microStates s.events + t.cycles)

/-- No instruction, no sequence and no step changes the platform's parameters, and an instruction touches none of the
pins, the samples to come, the bus ownership, the recorded stop edge, the boundary or the hold by MSYNC*. -/
def Obligations.PlatformNeverChanges : Prop :=
  (∀ s t : State, step s = .next t → t.plat = s.plat) ∧
  (∀ (i : Instr) (s t : State), exec i s = .next t →
    t.pins = s.pins ∧ t.env = s.env ∧ t.busReleased = s.busReleased ∧ t.stopPending = s.stopPending ∧
    t.boundaryOpen = s.boundaryOpen ∧ t.syncLow = s.syncLow ∧ t.cycles = s.cycles)

/-- A second name has the words, the meaning, the cycles and the interruptability of the instruction it names. -/
def Obligations.SecondNamesAreCoreInstructions : Prop :=
  ∀ (i : Instr), (∀ dbl, encode dbl i = encode dbl i.canonical) ∧
    (∀ s, exec i s = exec i.canonical s) ∧ (∀ s, i.cycles s = i.canonical.cycles s) ∧
    (∀ p, i.interruptable p = i.canonical.interruptable p)
end

