-- ==== Sys2Proof/Laws/Decode.lean ====
section
/-! SUPPORT. The decoder and the encoder: fields as arithmetic, the lengths as functions of the three fields of the
first word, the words the decoder does not look at, and the multi-word operands. -/

namespace Sys2Proof

/-- A field as arithmetic on the word. -/
theorem toNat_bits (w : Word) (lo len : Nat) : (bits w lo len).toNat = w.toNat / 2 ^ lo % 2 ^ len := by
  simp [bits, BitVec.extractLsb'_toNat, Nat.shiftRight_eq_div_pow]

/-- The length as a function of the three fields of the first word. -/
theorem instructionLength_eq (dbl : Bool) (w : Word) :
    instructionLength dbl w =
      (if (bits w 6 4).toNat = 0 then (if (bits w 3 3).toNat = 0 ∧ (bits w 0 3).toNat = 4 then 3 else 1)
       else if (bits w 6 4).toNat = 8 then 2
       else if (bits w 6 4).toNat < 8 then 1
       else if (bits w 3 3).toNat = 0 then 2
       else if (bits w 3 3).toNat = 7 then 2 + dbl.toNat else 1) := by
  have h10 : bits w 0 10 = 0b0000000100#10 ↔ w.toNat % 1024 = 4 := by
    rw [← BitVec.toNat_inj, toNat_bits]; simp
  have h8 : bits w 6 4 = 0b1000#4 ↔ w.toNat / 64 % 16 = 8 := by
    rw [← BitVec.toNat_inj, toNat_bits]; simp
  have hm0 : bits w 3 3 = 0b000#3 ↔ w.toNat / 8 % 8 = 0 := by
    rw [← BitVec.toNat_inj, toNat_bits]; simp
  have hm7 : bits w 3 3 = 0b111#3 ↔ w.toNat / 8 % 8 = 7 := by
    rw [← BitVec.toNat_inj, toNat_bits]; simp
  have h9 : w.getLsbD 9 = decide (8 ≤ w.toNat / 64 % 16) := by
    rw [BitVec.getLsbD, Nat.testBit_eq_decide_div_mod_eq, decide_eq_decide]; omega
  simp only [instructionLength, Bool.and_eq_true, beq_iff_eq, h10, h8, hm0, hm7, h9, decide_eq_true_eq, toNat_bits]
  cases dbl <;> simp only [Bool.toNat, cond_true, cond_false, if_true, if_false, Bool.false_eq_true] <;> (repeat' split) <;> omega

theorem fetchLength_eq (dbl : Bool) (w : Word) :
    fetchLength dbl w =
      if (bits w 6 4).toNat = 9 ∧ (bits w 3 3).toNat = 7 then 1 else instructionLength dbl w := by
  have h8 : bits w 6 4 = 0b1001#4 ↔ (bits w 6 4).toNat = 9 := by rw [← BitVec.toNat_inj]; simp
  have hm7 : bits w 3 3 = 0b111#3 ↔ (bits w 3 3).toNat = 7 := by rw [← BitVec.toNat_inj]; simp
  simp only [fetchLength, h8, hm7]

/-- Mode 000 of an external reference as a function of two fields of the first word. -/
theorem directMode_eq (w : Word) :
    directMode w = decide (9 ≤ (bits w 6 4).toNat ∧ (bits w 3 3).toNat = 0) := by
  have h8 : (bits w 6 4 != 0b1000#4) = !decide (w.toNat / 64 % 16 = 8) := by
    rw [Bool.eq_iff_iff, bne_iff_ne, ne_eq, ← BitVec.toNat_inj, toNat_bits]
    simp
  have hm0 : (bits w 3 3 == 0b000#3) = decide (w.toNat / 8 % 8 = 0) := by
    rw [Bool.eq_iff_iff, beq_iff_eq, ← BitVec.toNat_inj, toNat_bits]
    simp
  have h9 : w.getLsbD 9 = decide (8 ≤ w.toNat / 64 % 16) := by
    rw [BitVec.getLsbD, Nat.testBit_eq_decide_div_mod_eq, decide_eq_decide]
    omega
  rw [directMode, h8, hm0, h9, Bool.eq_iff_iff]
  simp only [toNat_bits, Bool.and_eq_true, Bool.not_eq_true', decide_eq_true_eq, decide_eq_false_iff_not]
  omega

/-- Words beyond the second are not looked at where two are fetched. -/
theorem decode_two {dbl : Bool} {w1 : Word} (h : fetchLength dbl w1 ≤ 2) (w2 w3 w3' : Word) :
    decode dbl w1 w2 w3 = decode dbl w1 w2 w3' := by
  rw [fetchLength_eq, instructionLength_eq] at h
  have i1 : decodeSingle w1 w2 w3 = decodeSingle w1 w2 w3' ∨ (bits w1 3 3).toNat = 0 ∧ (bits w1 0 3).toNat = 4 := by
    simp only [decodeSingle, decodeControl]
    generalize (bits w1 3 3).toNat = a at *
    generalize (bits w1 0 3).toNat = b at *
    split <;> first | exact .inl rfl | skip
    split <;> first | exact .inl rfl | exact .inr ⟨rfl, rfl⟩
  have i2 : ∀ (f g k), decodeInput f g k dbl w1 w2 w3 = decodeInput f g k dbl w1 w2 w3' ∨ ((bits w1 3 3).toNat = 7 ∧ dbl = true) := by
    intro f g k
    simp only [decodeInput, immediate]
    generalize (bits w1 3 3).toNat = a at *
    split <;> first | exact .inl rfl | (cases dbl <;> first | exact .inl rfl | exact .inr ⟨rfl, rfl⟩)
  simp only [decode]
  generalize (bits w1 6 4).toNat = op at *
  split <;> try rfl
  · rcases i1 with e | ⟨e1, e2⟩
    · exact e
    · simp [e1, e2] at h
  all_goals
   rcases i2 _ _ _ with e | ⟨e1, e2⟩
   · exact e
   · subst e2; simp only [e1] at h; exfalso; (repeat' split at h) <;> first | omega | (simp at h; done) | (simp at * <;> omega)
   
/-- Words beyond the first are not looked at where one is fetched. -/
theorem decode_one {dbl : Bool} {w1 : Word} (h : fetchLength dbl w1 = 1) (w2 w2' w3 : Word) :
    decode dbl w1 w2 w3 = decode dbl w1 w2' w3 := by
  rw [fetchLength_eq, instructionLength_eq] at h
  have i1 : decodeSingle w1 w2 w3 = decodeSingle w1 w2' w3 ∨ (bits w1 3 3).toNat = 0 ∧ (bits w1 0 3).toNat = 4 := by
    simp only [decodeSingle, decodeControl]
    generalize (bits w1 3 3).toNat = a at *
    generalize (bits w1 0 3).toNat = b at *
    split <;> first | exact .inl rfl | skip
    split <;> first | exact .inl rfl | exact .inr ⟨rfl, rfl⟩
  have i3 : decodeMoveOut w1 w2 = decodeMoveOut w1 w2' ∨ (bits w1 3 3).toNat = 0 := by
    simp only [decodeMoveOut]
    generalize (bits w1 3 3).toNat = a at *
    split <;> first | exact .inl rfl | exact .inr rfl
  have i2 : ∀ (f g k), decodeInput f g k dbl w1 w2 w3 = decodeInput f g k dbl w1 w2' w3 ∨ ((bits w1 3 3).toNat = 7 ∨ (bits w1 3 3).toNat = 0) := by
    intro f g k
    simp only [decodeInput, immediate]
    generalize (bits w1 3 3).toNat = a at *
    split <;> first | exact .inl rfl | exact .inr (.inl rfl)| exact .inr (.inr rfl)
  simp only [decode]
  generalize (bits w1 6 4).toNat = op at *
  split <;> try rfl
  · rcases i1 with e | ⟨e1, e2⟩
    · exact e
    · simp [e1, e2] at h
  · simp at h
  · rcases i3 with e | e1
    · exact e
    · simp [e1] at h
  all_goals
   rcases i2 _ _ _ with e | e1|e1
   · exact e
   · simp only [e1] at h; exfalso; (repeat' split at h) <;> first | omega | (simp at h; done) | (simp at * <;> omega)
   · simp only [e1] at h; exfalso; (repeat' split at h) <;> first | omega | (simp at h; done) | (simp at * <;> omega)

/-- The address of the words of a jump is the address encoded. -/
theorem jumpAddress_encode (bb : BitVec 2) (a : Word) (de : BitVec 2) :
    jumpAddress (0#6 ++ bb ++ bits a 10 6 ++ de) (0#6 ++ bits a 0 10) = a := by
  apply BitVec.eq_of_toNat_eq
  have : bits (0#6 ++ bb ++ bits a 10 6 ++ de : Word) 2 6 = bits a 10 6 := by
    ext i hi; simp only [bits, BitVec.getElem_extractLsb']
    show ((0#6 ++ bb ++ BitVec.extractLsb' 10 6 a : BitVec 14) ++ de : BitVec (14+2)).getLsbD _ = _
    rw [BitVec.getLsbD_append, if_neg (by omega)]
    show ((0#6 ++ bb : BitVec 8) ++ BitVec.extractLsb' 10 6 a : BitVec (8+6)).getLsbD _ = _
    rw [BitVec.getLsbD_append, if_pos (by omega)]; simp [hi]
  have h2 : bits (0#6 ++ bits a 0 10 : Word) 0 10 = bits a 0 10 := by
    ext i hi; simp only [bits, BitVec.getElem_extractLsb']
    show (0#6 ++ BitVec.extractLsb' 0 10 a : BitVec (6+10)).getLsbD _ = _
    rw [BitVec.getLsbD_append]; simp [hi]
  rw [jumpAddress, this, h2]
  rw [BitVec.toNat_append, ← Nat.shiftLeft_add_eq_or_of_lt (BitVec.isLt _)]
  have := a.isLt
  simp [bits, Nat.shiftLeft_eq, Nat.shiftRight_eq_div_pow]; omega

/-- The DE field of the second word of a jump. -/
theorem jumpDe_encode (bb : BitVec 2) (a : Word) (de : BitVec 2) :
   bits (0#6 ++ bb ++ bits a 10 6 ++ de : Word) 0 2 = de := by
    ext i hi; simp only [bits, BitVec.getElem_extractLsb']
    show ((0#6 ++ bb ++ BitVec.extractLsb' 10 6 a : BitVec 14) ++ de : BitVec (14+2)).getLsbD _ = _
    rw [BitVec.getLsbD_append, if_pos (by omega)]; simp [hi]
/-- The BB field of the second word of a jump. -/
theorem jumpBb_encode (bb : BitVec 2) (a : Word) (de : BitVec 2) :
   bits (0#6 ++ bb ++ bits a 10 6 ++ de : Word) 8 2 = bb := by
    ext i hi; simp only [bits, BitVec.getElem_extractLsb']
    show ((0#6 ++ bb ++ BitVec.extractLsb' 10 6 a : BitVec 14) ++ de : BitVec (14+2)).getLsbD _ = _
    rw [BitVec.getLsbD_append, if_neg (by omega)]
    show ((0#6 ++ bb : BitVec 8) ++ BitVec.extractLsb' 10 6 a : BitVec (8+6)).getLsbD _ = _
    rw [BitVec.getLsbD_append, if_neg (by omega)]
    show ((0#6 ++ bb : BitVec (6+2))).getLsbD _ = _
    rw [BitVec.getLsbD_append, if_pos (by omega)]
    have e : 8 + i - 2 - 6 = i := by omega
    rw [e]; rfl

/-- The two data words of an immediate give the immediate back. -/
theorem immediate_encode (w : Word) :
    immediate true ((bits w 0 8).zeroExtend 16) ((bits w 8 8).zeroExtend 16) = w := by
  apply BitVec.eq_of_toNat_eq
  simp only [immediate, doubleByte, if_pos, bits]
  rw [BitVec.toNat_append, ← Nat.shiftLeft_add_eq_or_of_lt (BitVec.isLt _)]
  have := w.isLt
  simp [Nat.shiftLeft_eq, Nat.shiftRight_eq_div_pow]; omega

/-- An instruction is read in one, two or three words. -/
theorem fetchLength_range (dbl : Bool) (w : Word) :
    fetchLength dbl w = 1 ∨ fetchLength dbl w = 2 ∨ fetchLength dbl w = 3 := by
  simp only [fetchLength, instructionLength]
  repeat' split
  all_goals simp

end Sys2Proof
end

