-- ==== Sys2Proof/Laws/Memory.lean ====
section
/-! SUPPORT. Memory: every operation keeps the canonical form, a read after a write, and equal contents are
equal data. -/

namespace Sys2Proof.Machine

theorem Memory.wfFrom_cons (lo k : Nat) (v : Byte) (m : Memory) :
    Memory.wfFrom lo ((k, v) :: m) = true ↔
      lo ≤ k ∧ k < Memory.cells ∧ v ≠ Memory.unlisted ∧ Memory.wfFrom (k + 1) m = true := by
  simp [Memory.wfFrom, and_assoc]

theorem Memory.wfFrom_mono {lo lo' : Nat} (h : lo' ≤ lo) {m : Memory} (hm : m.wfFrom lo = true) :
    m.wfFrom lo' = true := by
  cases m with
  | nil => rfl
  | cons c m =>
    obtain ⟨k, v⟩ := c
    rw [Memory.wfFrom_cons] at hm ⊢
    exact ⟨by omega, hm.2⟩

theorem Memory.readByte_below {lo k : Nat} {m : Memory} (hm : m.wfFrom lo = true) (h : k < lo) :
    m.readByte k = Memory.unlisted := by
  induction m generalizing lo with
  | nil => rfl
  | cons c m ih =>
    obtain ⟨k', v⟩ := c
    rw [Memory.wfFrom_cons] at hm
    simp only [Memory.readByte]
    rw [if_neg (by omega)]
    exact ih hm.2.2.2 (by omega)

/-- A write of one cell keeps the canonical form. -/
theorem Memory.wfFrom_writeByte {lo k : Nat} (v : Byte) {m : Memory} (hm : m.wfFrom lo = true)
    (hlo : lo ≤ k) (hk : k < Memory.cells) : (m.writeByte k v).wfFrom lo = true := by
  induction m generalizing lo with
  | nil =>
    simp only [Memory.writeByte]
    split
    · rfl
    · exact (Memory.wfFrom_cons ..).2 ⟨hlo, hk, ‹_›, rfl⟩
  | cons c m ih =>
    obtain ⟨k', v'⟩ := c
    rw [Memory.wfFrom_cons] at hm
    simp only [Memory.writeByte]
    split
    · split
      · exact (Memory.wfFrom_cons ..).2 hm
      · exact (Memory.wfFrom_cons ..).2
          ⟨hlo, hk, ‹_›, (Memory.wfFrom_cons ..).2 ⟨by omega, hm.2⟩⟩
    · split
      · split
        · exact Memory.wfFrom_mono (by omega) hm.2.2.2
        · exact (Memory.wfFrom_cons ..).2 ⟨hlo, hk, ‹_›, by subst k; exact hm.2.2.2⟩
      · exact (Memory.wfFrom_cons ..).2 ⟨hm.1, hm.2.1, hm.2.2.1, ih hm.2.2.2 (by omega)⟩

theorem Memory.readByte_writeByte_same {lo : Nat} (k : Nat) (v : Byte) {m : Memory}
    (hm : m.wfFrom lo = true) : (m.writeByte k v).readByte k = v := by
  induction m generalizing lo with
  | nil =>
    simp only [Memory.writeByte]
    split
    · simp [Memory.readByte, *]
    · simp [Memory.readByte]
  | cons c m ih =>
    obtain ⟨k', v'⟩ := c
    rw [Memory.wfFrom_cons] at hm
    simp only [Memory.writeByte]
    split
    · split
      · simp only [Memory.readByte]
        rw [if_neg (by omega), Memory.readByte_below hm.2.2.2 (by omega)]
        exact (‹v = _›).symm
      · simp [Memory.readByte]
    · split
      · split
        · rw [Memory.readByte_below hm.2.2.2 (by omega)]
          exact (‹v = _›).symm
        · simp [Memory.readByte]
      · simp only [Memory.readByte]
        rw [if_neg (by omega)]
        exact ih hm.2.2.2

theorem Memory.readByte_writeByte_other {k k' : Nat} (h : k' ≠ k) (v : Byte) (m : Memory) :
    (m.writeByte k v).readByte k' = m.readByte k' := by
  induction m with
  | nil =>
    simp only [Memory.writeByte]
    split
    · rfl
    · simp [Memory.readByte, Ne.symm h]
  | cons c m ih =>
    obtain ⟨j, w⟩ := c
    simp only [Memory.writeByte]
    split
    · split
      · rfl
      · simp [Memory.readByte, Ne.symm h]
    · split
      · split
        · simp [Memory.readByte, show j ≠ k' by omega]
        · simp [Memory.readByte, Ne.symm h, show j ≠ k' by omega]
      · simp [Memory.readByte, ih]

theorem Memory.key_lt_cells (a : Word) : 2 * a.toNat + 1 < Memory.cells := by
  have := a.isLt
  simp only [Memory.cells]
  omega

/-- A write of one word keeps the canonical form. -/
theorem Memory.wf_writeWord (a v : Word) {m : Memory} (hm : m.wf = true) : (m.writeWord a v).wf = true := by
  have := Memory.key_lt_cells a
  exact Memory.wfFrom_writeByte _ (Memory.wfFrom_writeByte _ hm (by omega) (by omega)) (by omega) this

/-- Placing words keeps the canonical form. -/
theorem Memory.wf_place (ws : List Word) (a : Word) {m : Memory} (hm : m.wf = true) :
    (Memory.place a ws m).wf = true := by
  induction ws generalizing a m with
  | nil => exact hm
  | cons w ws ih => exact ih (a + 1) (Memory.wf_writeWord a w hm)

/-- A word written outside a cell leaves the cell. -/
theorem Memory.readByte_writeWord_other {a : Word} {k : Nat} (h0 : k ≠ 2 * a.toNat)
    (h1 : k ≠ 2 * a.toNat + 1) (v : Word) (m : Memory) : (m.writeWord a v).readByte k = m.readByte k := by
  rw [Memory.writeWord, Memory.readByte_writeByte_other h1, Memory.readByte_writeByte_other h0]

theorem Memory.readWord_writeWord_same (a v : Word) {m : Memory} (hm : m.wf = true) :
    (m.writeWord a v).readWord a = v := by
  have hw := Memory.wfFrom_writeByte (k := 2 * a.toNat) (v.extractLsb' 0 8) hm (by omega)
    (by have := Memory.key_lt_cells a; omega)
  simp only [Memory.readWord, Memory.writeWord]
  rw [Memory.readByte_writeByte_same _ _ hw, Memory.readByte_writeByte_other (by omega),
    Memory.readByte_writeByte_same _ _ hm]
  ext i hi
  simp only [BitVec.getElem_append, BitVec.getElem_extractLsb']
  split
  · simp [hi]
  · rw [show 8 + (i - 8) = i by omega]; simp [hi]

theorem Memory.readWord_writeWord_other {a b : Word} (h : b ≠ a) (v : Word) (m : Memory) :
    (m.writeWord a v).readWord b = m.readWord b := by
  have hne : b.toNat ≠ a.toNat := fun e => h (BitVec.eq_of_toNat_eq e)
  simp only [Memory.readWord]
  rw [Memory.readByte_writeWord_other (by omega) (by omega),
    Memory.readByte_writeWord_other (by omega) (by omega)]

/-- Memories in canonical form with the same contents are the same list. -/
theorem Memory.eq_of_readByte_eq {lo : Nat} {m m' : Memory} (hm : m.wfFrom lo = true)
    (hm' : m'.wfFrom lo = true) (h : ∀ k, m.readByte k = m'.readByte k) : m = m' := by
  induction m generalizing lo m' with
  | nil =>
    cases m' with
    | nil => rfl
    | cons c m' =>
      obtain ⟨k, v⟩ := c
      rw [Memory.wfFrom_cons] at hm'
      have := h k
      simp [Memory.readByte] at this
      exact absurd this.symm hm'.2.2.1
  | cons c m ih =>
    obtain ⟨k, v⟩ := c
    rw [Memory.wfFrom_cons] at hm
    cases m' with
    | nil =>
      have := h k
      simp [Memory.readByte] at this
      exact absurd this hm.2.2.1
    | cons c' m' =>
      obtain ⟨k', v'⟩ := c'
      rw [Memory.wfFrom_cons] at hm'
      have hkk : k = k' := by
        rcases Nat.lt_trichotomy k k' with hlt | heq | hgt
        · have := h k
          simp only [Memory.readByte] at this
          rw [if_pos trivial, if_neg (by omega), Memory.readByte_below hm'.2.2.2 (by omega)] at this
          exact absurd this hm.2.2.1
        · exact heq
        · have := h k'
          simp only [Memory.readByte] at this
          rw [if_neg (by omega), if_pos trivial, Memory.readByte_below hm.2.2.2 (by omega)] at this
          exact absurd this.symm hm'.2.2.1
      subst hkk
      have hv : v = v' := by simpa [Memory.readByte] using h k
      subst hv
      rw [ih hm.2.2.2 hm'.2.2.2 fun j => ?_]
      by_cases hj : k = j
      · subst hj
        rw [Memory.readByte_below hm.2.2.2 (by omega), Memory.readByte_below hm'.2.2.2 (by omega)]
      · simpa [Memory.readByte, hj] using h j

end Sys2Proof.Machine
end

