-- ==== Sys2Proof/Laws/State.lean ====
section
/-! SUPPORT. One lemma per field per update of the state, and the registers after a write. -/

namespace Sys2Proof.Machine

variable (s : State) (r r' : Reg) (a v : Word)

@[simp] theorem State.setReg_regs : (s.setReg r v).regs = s.regs.set r v := rfl
@[simp] theorem State.setReg_status : (s.setReg r v).status = s.status := rfl
@[simp] theorem State.setReg_intff : (s.setReg r v).intff = s.intff := rfl
@[simp] theorem State.setReg_dbl : (s.setReg r v).dbl = s.dbl := rfl
@[simp] theorem State.setReg_run : (s.setReg r v).run = s.run := rfl
@[simp] theorem State.setReg_haltPending : (s.setReg r v).haltPending = s.haltPending := rfl
@[simp] theorem State.setReg_busReleased : (s.setReg r v).busReleased = s.busReleased := rfl
@[simp] theorem State.setReg_stopPending : (s.setReg r v).stopPending = s.stopPending := rfl
@[simp] theorem State.setReg_boundaryOpen : (s.setReg r v).boundaryOpen = s.boundaryOpen := rfl
@[simp] theorem State.setReg_syncLow : (s.setReg r v).syncLow = s.syncLow := rfl
@[simp] theorem State.setReg_mem : (s.setReg r v).mem = s.mem := rfl
@[simp] theorem State.setReg_plat : (s.setReg r v).plat = s.plat := rfl
@[simp] theorem State.setReg_pins : (s.setReg r v).pins = s.pins := rfl
@[simp] theorem State.setReg_env : (s.setReg r v).env = s.env := rfl
@[simp] theorem State.setReg_oracle : (s.setReg r v).oracle = s.oracle := rfl
@[simp] theorem State.setReg_events : (s.setReg r v).events = s.events := rfl
@[simp] theorem State.setReg_cycles : (s.setReg r v).cycles = s.cycles := rfl

@[simp] theorem State.setPc_regs : (s.setPc v).regs = s.regs.set .r7 v := rfl
@[simp] theorem State.setPc_status : (s.setPc v).status = s.status := rfl
@[simp] theorem State.setPc_intff : (s.setPc v).intff = s.intff := rfl
@[simp] theorem State.setPc_dbl : (s.setPc v).dbl = s.dbl := rfl
@[simp] theorem State.setPc_run : (s.setPc v).run = s.run := rfl
@[simp] theorem State.setPc_haltPending : (s.setPc v).haltPending = s.haltPending := rfl
@[simp] theorem State.setPc_busReleased : (s.setPc v).busReleased = s.busReleased := rfl
@[simp] theorem State.setPc_stopPending : (s.setPc v).stopPending = s.stopPending := rfl
@[simp] theorem State.setPc_boundaryOpen : (s.setPc v).boundaryOpen = s.boundaryOpen := rfl
@[simp] theorem State.setPc_syncLow : (s.setPc v).syncLow = s.syncLow := rfl
@[simp] theorem State.setPc_mem : (s.setPc v).mem = s.mem := rfl
@[simp] theorem State.setPc_plat : (s.setPc v).plat = s.plat := rfl
@[simp] theorem State.setPc_pins : (s.setPc v).pins = s.pins := rfl
@[simp] theorem State.setPc_env : (s.setPc v).env = s.env := rfl
@[simp] theorem State.setPc_oracle : (s.setPc v).oracle = s.oracle := rfl
@[simp] theorem State.setPc_events : (s.setPc v).events = s.events := rfl
@[simp] theorem State.setPc_cycles : (s.setPc v).cycles = s.cycles := rfl

@[simp] theorem State.setStatus_regs (f : Status) : (s.setStatus f).regs = s.regs := rfl
@[simp] theorem State.setStatus_status (f : Status) : (s.setStatus f).status = f := rfl
@[simp] theorem State.setStatus_intff (f : Status) : (s.setStatus f).intff = s.intff := rfl
@[simp] theorem State.setStatus_dbl (f : Status) : (s.setStatus f).dbl = s.dbl := rfl
@[simp] theorem State.setStatus_run (f : Status) : (s.setStatus f).run = s.run := rfl
@[simp] theorem State.setStatus_haltPending (f : Status) : (s.setStatus f).haltPending = s.haltPending := rfl
@[simp] theorem State.setStatus_busReleased (f : Status) : (s.setStatus f).busReleased = s.busReleased := rfl
@[simp] theorem State.setStatus_stopPending (f : Status) : (s.setStatus f).stopPending = s.stopPending := rfl
@[simp] theorem State.setStatus_boundaryOpen (f : Status) : (s.setStatus f).boundaryOpen = s.boundaryOpen := rfl
@[simp] theorem State.setStatus_syncLow (f : Status) : (s.setStatus f).syncLow = s.syncLow := rfl
@[simp] theorem State.setStatus_mem (f : Status) : (s.setStatus f).mem = s.mem := rfl
@[simp] theorem State.setStatus_plat (f : Status) : (s.setStatus f).plat = s.plat := rfl
@[simp] theorem State.setStatus_pins (f : Status) : (s.setStatus f).pins = s.pins := rfl
@[simp] theorem State.setStatus_env (f : Status) : (s.setStatus f).env = s.env := rfl
@[simp] theorem State.setStatus_oracle (f : Status) : (s.setStatus f).oracle = s.oracle := rfl
@[simp] theorem State.setStatus_events (f : Status) : (s.setStatus f).events = s.events := rfl
@[simp] theorem State.setStatus_cycles (f : Status) : (s.setStatus f).cycles = s.cycles := rfl

@[simp] theorem State.setSZ_regs : (s.setSZ v).regs = s.regs := rfl
@[simp] theorem State.setSZ_status : (s.setSZ v).status = s.status.setSZ v := rfl
@[simp] theorem State.setSZ_intff : (s.setSZ v).intff = s.intff := rfl
@[simp] theorem State.setSZ_dbl : (s.setSZ v).dbl = s.dbl := rfl
@[simp] theorem State.setSZ_run : (s.setSZ v).run = s.run := rfl
@[simp] theorem State.setSZ_haltPending : (s.setSZ v).haltPending = s.haltPending := rfl
@[simp] theorem State.setSZ_busReleased : (s.setSZ v).busReleased = s.busReleased := rfl
@[simp] theorem State.setSZ_stopPending : (s.setSZ v).stopPending = s.stopPending := rfl
@[simp] theorem State.setSZ_boundaryOpen : (s.setSZ v).boundaryOpen = s.boundaryOpen := rfl
@[simp] theorem State.setSZ_syncLow : (s.setSZ v).syncLow = s.syncLow := rfl
@[simp] theorem State.setSZ_mem : (s.setSZ v).mem = s.mem := rfl
@[simp] theorem State.setSZ_plat : (s.setSZ v).plat = s.plat := rfl
@[simp] theorem State.setSZ_pins : (s.setSZ v).pins = s.pins := rfl
@[simp] theorem State.setSZ_env : (s.setSZ v).env = s.env := rfl
@[simp] theorem State.setSZ_oracle : (s.setSZ v).oracle = s.oracle := rfl
@[simp] theorem State.setSZ_events : (s.setSZ v).events = s.events := rfl
@[simp] theorem State.setSZ_cycles : (s.setSZ v).cycles = s.cycles := rfl

@[simp] theorem State.setIntff_regs (b : Bool) : (s.setIntff b).regs = s.regs := rfl
@[simp] theorem State.setIntff_status (b : Bool) : (s.setIntff b).status = s.status := rfl
@[simp] theorem State.setIntff_intff (b : Bool) : (s.setIntff b).intff = b := rfl
@[simp] theorem State.setIntff_dbl (b : Bool) : (s.setIntff b).dbl = s.dbl := rfl
@[simp] theorem State.setIntff_run (b : Bool) : (s.setIntff b).run = s.run := rfl
@[simp] theorem State.setIntff_haltPending (b : Bool) : (s.setIntff b).haltPending = s.haltPending := rfl
@[simp] theorem State.setIntff_busReleased (b : Bool) : (s.setIntff b).busReleased = s.busReleased := rfl
@[simp] theorem State.setIntff_stopPending (b : Bool) : (s.setIntff b).stopPending = s.stopPending := rfl
@[simp] theorem State.setIntff_boundaryOpen (b : Bool) : (s.setIntff b).boundaryOpen = s.boundaryOpen := rfl
@[simp] theorem State.setIntff_syncLow (b : Bool) : (s.setIntff b).syncLow = s.syncLow := rfl
@[simp] theorem State.setIntff_mem (b : Bool) : (s.setIntff b).mem = s.mem := rfl
@[simp] theorem State.setIntff_plat (b : Bool) : (s.setIntff b).plat = s.plat := rfl
@[simp] theorem State.setIntff_pins (b : Bool) : (s.setIntff b).pins = s.pins := rfl
@[simp] theorem State.setIntff_env (b : Bool) : (s.setIntff b).env = s.env := rfl
@[simp] theorem State.setIntff_oracle (b : Bool) : (s.setIntff b).oracle = s.oracle := rfl
@[simp] theorem State.setIntff_events (b : Bool) : (s.setIntff b).events = s.events := rfl
@[simp] theorem State.setIntff_cycles (b : Bool) : (s.setIntff b).cycles = s.cycles := rfl

@[simp] theorem State.setDbl_regs (b : Bool) : (s.setDbl b).regs = s.regs := rfl
@[simp] theorem State.setDbl_status (b : Bool) : (s.setDbl b).status = s.status := rfl
@[simp] theorem State.setDbl_intff (b : Bool) : (s.setDbl b).intff = s.intff := rfl
@[simp] theorem State.setDbl_dbl (b : Bool) : (s.setDbl b).dbl = b := rfl
@[simp] theorem State.setDbl_run (b : Bool) : (s.setDbl b).run = s.run := rfl
@[simp] theorem State.setDbl_haltPending (b : Bool) : (s.setDbl b).haltPending = s.haltPending := rfl
@[simp] theorem State.setDbl_busReleased (b : Bool) : (s.setDbl b).busReleased = s.busReleased := rfl
@[simp] theorem State.setDbl_stopPending (b : Bool) : (s.setDbl b).stopPending = s.stopPending := rfl
@[simp] theorem State.setDbl_boundaryOpen (b : Bool) : (s.setDbl b).boundaryOpen = s.boundaryOpen := rfl
@[simp] theorem State.setDbl_syncLow (b : Bool) : (s.setDbl b).syncLow = s.syncLow := rfl
@[simp] theorem State.setDbl_mem (b : Bool) : (s.setDbl b).mem = s.mem := rfl
@[simp] theorem State.setDbl_plat (b : Bool) : (s.setDbl b).plat = s.plat := rfl
@[simp] theorem State.setDbl_pins (b : Bool) : (s.setDbl b).pins = s.pins := rfl
@[simp] theorem State.setDbl_env (b : Bool) : (s.setDbl b).env = s.env := rfl
@[simp] theorem State.setDbl_oracle (b : Bool) : (s.setDbl b).oracle = s.oracle := rfl
@[simp] theorem State.setDbl_events (b : Bool) : (s.setDbl b).events = s.events := rfl
@[simp] theorem State.setDbl_cycles (b : Bool) : (s.setDbl b).cycles = s.cycles := rfl

@[simp] theorem State.emit_regs (e : Event) : (s.emit e).regs = s.regs := rfl
@[simp] theorem State.emit_status (e : Event) : (s.emit e).status = s.status := rfl
@[simp] theorem State.emit_intff (e : Event) : (s.emit e).intff = s.intff := rfl
@[simp] theorem State.emit_dbl (e : Event) : (s.emit e).dbl = s.dbl := rfl
@[simp] theorem State.emit_run (e : Event) : (s.emit e).run = s.run := rfl
@[simp] theorem State.emit_haltPending (e : Event) : (s.emit e).haltPending = s.haltPending := rfl
@[simp] theorem State.emit_busReleased (e : Event) : (s.emit e).busReleased = s.busReleased := rfl
@[simp] theorem State.emit_stopPending (e : Event) : (s.emit e).stopPending = s.stopPending := rfl
@[simp] theorem State.emit_boundaryOpen (e : Event) : (s.emit e).boundaryOpen = s.boundaryOpen := rfl
@[simp] theorem State.emit_syncLow (e : Event) : (s.emit e).syncLow = s.syncLow := rfl
@[simp] theorem State.emit_mem (e : Event) : (s.emit e).mem = s.mem := rfl
@[simp] theorem State.emit_plat (e : Event) : (s.emit e).plat = s.plat := rfl
@[simp] theorem State.emit_pins (e : Event) : (s.emit e).pins = s.pins := rfl
@[simp] theorem State.emit_env (e : Event) : (s.emit e).env = s.env := rfl
@[simp] theorem State.emit_oracle (e : Event) : (s.emit e).oracle = s.oracle := rfl
@[simp] theorem State.emit_events (e : Event) : (s.emit e).events = e :: s.events := rfl
@[simp] theorem State.emit_cycles (e : Event) : (s.emit e).cycles = s.cycles := rfl

@[simp] theorem State.idle_regs (n : Nat) : (s.idle n).regs = s.regs := rfl
@[simp] theorem State.idle_status (n : Nat) : (s.idle n).status = s.status := rfl
@[simp] theorem State.idle_intff (n : Nat) : (s.idle n).intff = s.intff := rfl
@[simp] theorem State.idle_dbl (n : Nat) : (s.idle n).dbl = s.dbl := rfl
@[simp] theorem State.idle_run (n : Nat) : (s.idle n).run = s.run := rfl
@[simp] theorem State.idle_haltPending (n : Nat) : (s.idle n).haltPending = s.haltPending := rfl
@[simp] theorem State.idle_busReleased (n : Nat) : (s.idle n).busReleased = s.busReleased := rfl
@[simp] theorem State.idle_stopPending (n : Nat) : (s.idle n).stopPending = s.stopPending := rfl
@[simp] theorem State.idle_boundaryOpen (n : Nat) : (s.idle n).boundaryOpen = s.boundaryOpen := rfl
@[simp] theorem State.idle_syncLow (n : Nat) : (s.idle n).syncLow = s.syncLow := rfl
@[simp] theorem State.idle_mem (n : Nat) : (s.idle n).mem = s.mem := rfl
@[simp] theorem State.idle_plat (n : Nat) : (s.idle n).plat = s.plat := rfl
@[simp] theorem State.idle_pins (n : Nat) : (s.idle n).pins = s.pins := rfl
@[simp] theorem State.idle_env (n : Nat) : (s.idle n).env = s.env := rfl
@[simp] theorem State.idle_cycles (n : Nat) : (s.idle n).cycles = s.cycles := rfl
@[simp] theorem State.idle_oracle (n : Nat) : (s.idle n).oracle = s.oracle := rfl
@[simp] theorem State.idle_events (n : Nat) : (s.idle n).events = List.replicate n .nact ++ s.events := rfl

@[simp] theorem State.sendAddress_regs : (s.sendAddress a).regs = s.regs := rfl
@[simp] theorem State.sendAddress_status : (s.sendAddress a).status = s.status := rfl
@[simp] theorem State.sendAddress_intff : (s.sendAddress a).intff = s.intff := rfl
@[simp] theorem State.sendAddress_dbl : (s.sendAddress a).dbl = s.dbl := rfl
@[simp] theorem State.sendAddress_run : (s.sendAddress a).run = s.run := rfl
@[simp] theorem State.sendAddress_haltPending : (s.sendAddress a).haltPending = s.haltPending := rfl
@[simp] theorem State.sendAddress_busReleased : (s.sendAddress a).busReleased = s.busReleased := rfl
@[simp] theorem State.sendAddress_stopPending : (s.sendAddress a).stopPending = s.stopPending := rfl
@[simp] theorem State.sendAddress_boundaryOpen : (s.sendAddress a).boundaryOpen = s.boundaryOpen := rfl
@[simp] theorem State.sendAddress_syncLow : (s.sendAddress a).syncLow = s.syncLow := rfl
@[simp] theorem State.sendAddress_mem : (s.sendAddress a).mem = s.mem := rfl
@[simp] theorem State.sendAddress_plat : (s.sendAddress a).plat = s.plat := rfl
@[simp] theorem State.sendAddress_pins : (s.sendAddress a).pins = s.pins := rfl
@[simp] theorem State.sendAddress_env : (s.sendAddress a).env = s.env := rfl
@[simp] theorem State.sendAddress_cycles : (s.sendAddress a).cycles = s.cycles := rfl
@[simp] theorem State.sendAddress_oracle : (s.sendAddress a).oracle = s.oracle := rfl
@[simp] theorem State.sendAddress_events : (s.sendAddress a).events = .nact :: .bar a :: s.events := rfl

@[simp] theorem State.consult_regs : (s.consult).regs = s.regs := rfl
@[simp] theorem State.consult_status : (s.consult).status = s.status := rfl
@[simp] theorem State.consult_intff : (s.consult).intff = s.intff := rfl
@[simp] theorem State.consult_dbl : (s.consult).dbl = s.dbl := rfl
@[simp] theorem State.consult_run : (s.consult).run = s.run := rfl
@[simp] theorem State.consult_haltPending : (s.consult).haltPending = s.haltPending := rfl
@[simp] theorem State.consult_busReleased : (s.consult).busReleased = s.busReleased := rfl
@[simp] theorem State.consult_stopPending : (s.consult).stopPending = s.stopPending := rfl
@[simp] theorem State.consult_boundaryOpen : (s.consult).boundaryOpen = s.boundaryOpen := rfl
@[simp] theorem State.consult_syncLow : (s.consult).syncLow = s.syncLow := rfl
@[simp] theorem State.consult_mem : (s.consult).mem = s.mem := rfl
@[simp] theorem State.consult_plat : (s.consult).plat = s.plat := rfl
@[simp] theorem State.consult_pins : (s.consult).pins = s.pins := rfl
@[simp] theorem State.consult_env : (s.consult).env = s.env := rfl
@[simp] theorem State.consult_oracle : (s.consult).oracle = s.oracle + 1 := rfl
@[simp] theorem State.consult_events : (s.consult).events = s.events := rfl
@[simp] theorem State.consult_cycles : (s.consult).cycles = s.cycles := rfl

@[simp] theorem State.stop_regs : (s.stop).regs = s.regs := rfl
@[simp] theorem State.stop_status : (s.stop).status = s.status := rfl
@[simp] theorem State.stop_intff : (s.stop).intff = s.intff := rfl
@[simp] theorem State.stop_dbl : (s.stop).dbl = s.dbl := rfl
@[simp] theorem State.stop_run : (s.stop).run = .stopped := rfl
@[simp] theorem State.stop_haltPending : (s.stop).haltPending = s.haltPending := rfl
@[simp] theorem State.stop_busReleased : (s.stop).busReleased = s.busReleased := rfl
@[simp] theorem State.stop_stopPending : (s.stop).stopPending = s.stopPending := rfl
@[simp] theorem State.stop_boundaryOpen : (s.stop).boundaryOpen = false := rfl
@[simp] theorem State.stop_syncLow : (s.stop).syncLow = s.syncLow := rfl
@[simp] theorem State.stop_mem : (s.stop).mem = s.mem := rfl
@[simp] theorem State.stop_plat : (s.stop).plat = s.plat := rfl
@[simp] theorem State.stop_pins : (s.stop).pins = s.pins := rfl
@[simp] theorem State.stop_env : (s.stop).env = s.env := rfl
@[simp] theorem State.stop_oracle : (s.stop).oracle = s.oracle := rfl
@[simp] theorem State.stop_events : (s.stop).events = s.events := rfl
@[simp] theorem State.stop_cycles : (s.stop).cycles = s.cycles := rfl

@[simp] theorem State.store_regs : (s.store a v).regs = s.regs := by unfold State.store; split <;> rfl
@[simp] theorem State.store_status : (s.store a v).status = s.status := by unfold State.store; split <;> rfl
@[simp] theorem State.store_intff : (s.store a v).intff = s.intff := by unfold State.store; split <;> rfl
@[simp] theorem State.store_dbl : (s.store a v).dbl = s.dbl := by unfold State.store; split <;> rfl
@[simp] theorem State.store_run : (s.store a v).run = s.run := by unfold State.store; split <;> rfl
@[simp] theorem State.store_haltPending : (s.store a v).haltPending = s.haltPending := by unfold State.store; split <;> rfl
@[simp] theorem State.store_busReleased : (s.store a v).busReleased = s.busReleased := by unfold State.store; split <;> rfl
@[simp] theorem State.store_stopPending : (s.store a v).stopPending = s.stopPending := by unfold State.store; split <;> rfl
@[simp] theorem State.store_boundaryOpen : (s.store a v).boundaryOpen = s.boundaryOpen := by unfold State.store; split <;> rfl
@[simp] theorem State.store_syncLow : (s.store a v).syncLow = s.syncLow := by unfold State.store; split <;> rfl
@[simp] theorem State.store_plat : (s.store a v).plat = s.plat := by unfold State.store; split <;> rfl
@[simp] theorem State.store_pins : (s.store a v).pins = s.pins := by unfold State.store; split <;> rfl
@[simp] theorem State.store_env : (s.store a v).env = s.env := by unfold State.store; split <;> rfl
@[simp] theorem State.store_oracle : (s.store a v).oracle = s.oracle := by unfold State.store; split <;> rfl
@[simp] theorem State.store_events : (s.store a v).events = s.events := by unfold State.store; split <;> rfl
@[simp] theorem State.store_cycles : (s.store a v).cycles = s.cycles := by unfold State.store; split <;> rfl

@[simp] theorem State.strobe_regs : (s.strobe a v).regs = s.regs := by simp [State.strobe]
@[simp] theorem State.strobe_status : (s.strobe a v).status = s.status := by simp [State.strobe]
@[simp] theorem State.strobe_intff : (s.strobe a v).intff = s.intff := by simp [State.strobe]
@[simp] theorem State.strobe_dbl : (s.strobe a v).dbl = s.dbl := by simp [State.strobe]
@[simp] theorem State.strobe_run : (s.strobe a v).run = s.run := by simp [State.strobe]
@[simp] theorem State.strobe_haltPending : (s.strobe a v).haltPending = s.haltPending := by simp [State.strobe]
@[simp] theorem State.strobe_busReleased : (s.strobe a v).busReleased = s.busReleased := by simp [State.strobe]
@[simp] theorem State.strobe_stopPending : (s.strobe a v).stopPending = s.stopPending := by simp [State.strobe]
@[simp] theorem State.strobe_boundaryOpen : (s.strobe a v).boundaryOpen = s.boundaryOpen := by simp [State.strobe]
@[simp] theorem State.strobe_syncLow : (s.strobe a v).syncLow = s.syncLow := by simp [State.strobe]
@[simp] theorem State.strobe_plat : (s.strobe a v).plat = s.plat := by simp [State.strobe]
@[simp] theorem State.strobe_pins : (s.strobe a v).pins = s.pins := by simp [State.strobe]
@[simp] theorem State.strobe_env : (s.strobe a v).env = s.env := by simp [State.strobe]
@[simp] theorem State.strobe_oracle : (s.strobe a v).oracle = s.oracle := by simp [State.strobe]
@[simp] theorem State.strobe_cycles : (s.strobe a v).cycles = s.cycles := by simp [State.strobe]
@[simp] theorem State.strobe_events : (s.strobe a v).events = .dws v :: .dw v :: s.events := by
  simp [State.strobe]
@[simp] theorem State.strobe_mem : (s.strobe a v).mem = (s.store a v).mem := rfl

@[simp] theorem State.directWrite_regs : (s.directWrite a v).regs = s.regs := by simp [State.directWrite]
@[simp] theorem State.directWrite_status : (s.directWrite a v).status = s.status := by simp [State.directWrite]
@[simp] theorem State.directWrite_intff : (s.directWrite a v).intff = s.intff := by simp [State.directWrite]
@[simp] theorem State.directWrite_dbl : (s.directWrite a v).dbl = s.dbl := by simp [State.directWrite]
@[simp] theorem State.directWrite_run : (s.directWrite a v).run = s.run := by simp [State.directWrite]
@[simp] theorem State.directWrite_haltPending : (s.directWrite a v).haltPending = s.haltPending := by simp [State.directWrite]
@[simp] theorem State.directWrite_busReleased : (s.directWrite a v).busReleased = s.busReleased := by simp [State.directWrite]
@[simp] theorem State.directWrite_stopPending : (s.directWrite a v).stopPending = s.stopPending := by simp [State.directWrite]
@[simp] theorem State.directWrite_boundaryOpen : (s.directWrite a v).boundaryOpen = s.boundaryOpen := by simp [State.directWrite]
@[simp] theorem State.directWrite_syncLow : (s.directWrite a v).syncLow = s.syncLow := by simp [State.directWrite]
@[simp] theorem State.directWrite_plat : (s.directWrite a v).plat = s.plat := by simp [State.directWrite]
@[simp] theorem State.directWrite_pins : (s.directWrite a v).pins = s.pins := by simp [State.directWrite]
@[simp] theorem State.directWrite_env : (s.directWrite a v).env = s.env := by simp [State.directWrite]
@[simp] theorem State.directWrite_oracle : (s.directWrite a v).oracle = s.oracle := by simp [State.directWrite]
@[simp] theorem State.directWrite_cycles : (s.directWrite a v).cycles = s.cycles := by simp [State.directWrite]
@[simp] theorem State.directWrite_events :
    (s.directWrite a v).events = .nact :: .dws v :: .dw v :: s.events := by
  simp [State.directWrite]
@[simp] theorem State.directWrite_mem : (s.directWrite a v).mem = (s.store a v).mem := rfl

@[simp] theorem State.busWrite_regs : (s.busWrite a v).regs = s.regs := by simp [State.busWrite]
@[simp] theorem State.busWrite_status : (s.busWrite a v).status = s.status := by simp [State.busWrite]
@[simp] theorem State.busWrite_intff : (s.busWrite a v).intff = s.intff := by simp [State.busWrite]
@[simp] theorem State.busWrite_dbl : (s.busWrite a v).dbl = s.dbl := by simp [State.busWrite]
@[simp] theorem State.busWrite_run : (s.busWrite a v).run = s.run := by simp [State.busWrite]
@[simp] theorem State.busWrite_haltPending : (s.busWrite a v).haltPending = s.haltPending := by simp [State.busWrite]
@[simp] theorem State.busWrite_busReleased : (s.busWrite a v).busReleased = s.busReleased := by simp [State.busWrite]
@[simp] theorem State.busWrite_stopPending : (s.busWrite a v).stopPending = s.stopPending := by simp [State.busWrite]
@[simp] theorem State.busWrite_boundaryOpen : (s.busWrite a v).boundaryOpen = s.boundaryOpen := by simp [State.busWrite]
@[simp] theorem State.busWrite_syncLow : (s.busWrite a v).syncLow = s.syncLow := by simp [State.busWrite]
@[simp] theorem State.busWrite_plat : (s.busWrite a v).plat = s.plat := by simp [State.busWrite]
@[simp] theorem State.busWrite_pins : (s.busWrite a v).pins = s.pins := by simp [State.busWrite]
@[simp] theorem State.busWrite_env : (s.busWrite a v).env = s.env := by simp [State.busWrite]
@[simp] theorem State.busWrite_oracle : (s.busWrite a v).oracle = s.oracle := by simp [State.busWrite]
@[simp] theorem State.busWrite_events :
    (s.busWrite a v).events = .nact :: .dws v :: .dw v :: .nact :: .bar a :: s.events := by
  simp [State.busWrite]
@[simp] theorem State.busWrite_cycles : (s.busWrite a v).cycles = s.cycles := by simp [State.busWrite]

@[simp] theorem State.busWrite_mem : (s.busWrite a v).mem = (s.store a v).mem := by
  simp [State.busWrite, State.sendAddress, State.store, State.emit]; split <;> rfl

@[simp] theorem State.addressRead_value : (s.addressRead a).1 = s.busValue a := rfl
@[simp] theorem State.addressRead_regs : (s.addressRead a).2.regs = s.regs := rfl
@[simp] theorem State.addressRead_status : (s.addressRead a).2.status = s.status := rfl
@[simp] theorem State.addressRead_intff : (s.addressRead a).2.intff = s.intff := rfl
@[simp] theorem State.addressRead_dbl : (s.addressRead a).2.dbl = s.dbl := rfl
@[simp] theorem State.addressRead_run : (s.addressRead a).2.run = s.run := rfl
@[simp] theorem State.addressRead_haltPending : (s.addressRead a).2.haltPending = s.haltPending := rfl
@[simp] theorem State.addressRead_busReleased : (s.addressRead a).2.busReleased = s.busReleased := rfl
@[simp] theorem State.addressRead_stopPending : (s.addressRead a).2.stopPending = s.stopPending := rfl
@[simp] theorem State.addressRead_boundaryOpen : (s.addressRead a).2.boundaryOpen = s.boundaryOpen := rfl
@[simp] theorem State.addressRead_syncLow : (s.addressRead a).2.syncLow = s.syncLow := rfl
@[simp] theorem State.addressRead_mem : (s.addressRead a).2.mem = s.mem := rfl
@[simp] theorem State.addressRead_plat : (s.addressRead a).2.plat = s.plat := rfl
@[simp] theorem State.addressRead_pins : (s.addressRead a).2.pins = s.pins := rfl
@[simp] theorem State.addressRead_env : (s.addressRead a).2.env = s.env := rfl
@[simp] theorem State.addressRead_cycles : (s.addressRead a).2.cycles = s.cycles := rfl
@[simp] theorem State.addressRead_oracle : (s.addressRead a).2.oracle = s.oracle + 1 := rfl
@[simp] theorem State.addressRead_events :
    (s.addressRead a).2.events = .nact :: .adar (s.busValue a) :: .nact :: .bar a :: s.events := rfl

@[simp] theorem State.directRead_value : (s.directRead a).1 = s.busValue a := rfl
@[simp] theorem State.directRead_regs : (s.directRead a).2.regs = s.regs := rfl
@[simp] theorem State.directRead_status : (s.directRead a).2.status = s.status := rfl
@[simp] theorem State.directRead_intff : (s.directRead a).2.intff = s.intff := rfl
@[simp] theorem State.directRead_dbl : (s.directRead a).2.dbl = s.dbl := rfl
@[simp] theorem State.directRead_run : (s.directRead a).2.run = s.run := rfl
@[simp] theorem State.directRead_haltPending : (s.directRead a).2.haltPending = s.haltPending := rfl
@[simp] theorem State.directRead_busReleased : (s.directRead a).2.busReleased = s.busReleased := rfl
@[simp] theorem State.directRead_stopPending : (s.directRead a).2.stopPending = s.stopPending := rfl
@[simp] theorem State.directRead_boundaryOpen : (s.directRead a).2.boundaryOpen = s.boundaryOpen := rfl
@[simp] theorem State.directRead_syncLow : (s.directRead a).2.syncLow = s.syncLow := rfl
@[simp] theorem State.directRead_mem : (s.directRead a).2.mem = s.mem := rfl
@[simp] theorem State.directRead_plat : (s.directRead a).2.plat = s.plat := rfl
@[simp] theorem State.directRead_pins : (s.directRead a).2.pins = s.pins := rfl
@[simp] theorem State.directRead_env : (s.directRead a).2.env = s.env := rfl
@[simp] theorem State.directRead_cycles : (s.directRead a).2.cycles = s.cycles := rfl
@[simp] theorem State.directRead_oracle : (s.directRead a).2.oracle = s.oracle + 1 := rfl
@[simp] theorem State.directRead_events : (s.directRead a).2.events = .dtb (s.busValue a) :: s.events := rfl

@[simp] theorem State.busRead_value : (s.busRead a).1 = s.busValue a := rfl
@[simp] theorem State.busRead_regs : (s.busRead a).2.regs = s.regs := rfl
@[simp] theorem State.busRead_status : (s.busRead a).2.status = s.status := rfl
@[simp] theorem State.busRead_intff : (s.busRead a).2.intff = s.intff := rfl
@[simp] theorem State.busRead_dbl : (s.busRead a).2.dbl = s.dbl := rfl
@[simp] theorem State.busRead_run : (s.busRead a).2.run = s.run := rfl
@[simp] theorem State.busRead_haltPending : (s.busRead a).2.haltPending = s.haltPending := rfl
@[simp] theorem State.busRead_busReleased : (s.busRead a).2.busReleased = s.busReleased := rfl
@[simp] theorem State.busRead_stopPending : (s.busRead a).2.stopPending = s.stopPending := rfl
@[simp] theorem State.busRead_boundaryOpen : (s.busRead a).2.boundaryOpen = s.boundaryOpen := rfl
@[simp] theorem State.busRead_syncLow : (s.busRead a).2.syncLow = s.syncLow := rfl
@[simp] theorem State.busRead_mem : (s.busRead a).2.mem = s.mem := rfl
@[simp] theorem State.busRead_plat : (s.busRead a).2.plat = s.plat := rfl
@[simp] theorem State.busRead_pins : (s.busRead a).2.pins = s.pins := rfl
@[simp] theorem State.busRead_env : (s.busRead a).2.env = s.env := rfl
@[simp] theorem State.busRead_oracle : (s.busRead a).2.oracle = s.oracle + 1 := rfl
@[simp] theorem State.busRead_events : (s.busRead a).2.events = .dtb (s.busValue a) :: .nact :: .bar a :: s.events := rfl
@[simp] theorem State.busRead_cycles : (s.busRead a).2.cycles = s.cycles := rfl

theorem Regs.get_set (x : Regs) : (x.set r v).get r' = if r' = r then v else x.get r' := by
  cases r <;> cases r' <;> rfl

@[simp] theorem Regs.get_set_same (x : Regs) : (x.set r v).get r = v := by simp [Regs.get_set]

@[simp] theorem Regs.get_set_other (x : Regs) (h : r' ≠ r) : (x.set r v).get r' = x.get r' := by
  simp [Regs.get_set, h]

theorem State.reg_setReg : (s.setReg r v).reg r' = if r' = r then v else s.reg r' := Regs.get_set ..

@[simp] theorem State.reg_setReg_same : (s.setReg r v).reg r = v := by simp [State.reg_setReg]

@[simp] theorem State.reg_setReg_other (h : r' ≠ r) : (s.setReg r v).reg r' = s.reg r' := by
  simp [State.reg_setReg, h]

theorem State.reg_setPc : (s.setPc v).reg r' = if r' = .r7 then v else s.reg r' := Regs.get_set ..

@[simp] theorem State.pc_setPc : (s.setPc v).pc = v := rfl

@[simp] theorem State.reg_setStatus (f : Status) : (s.setStatus f).reg r = s.reg r := rfl
@[simp] theorem State.reg_setSZ : (s.setSZ v).reg r = s.reg r := rfl
@[simp] theorem State.reg_setIntff (b : Bool) : (s.setIntff b).reg r = s.reg r := rfl
@[simp] theorem State.reg_setDbl (b : Bool) : (s.setDbl b).reg r = s.reg r := rfl
@[simp] theorem State.reg_emit (e : Event) : (s.emit e).reg r = s.reg r := rfl
@[simp] theorem State.reg_consult : (s.consult).reg r = s.reg r := rfl
@[simp] theorem State.reg_idle (n : Nat) : (s.idle n).reg r = s.reg r := rfl
@[simp] theorem State.reg_sendAddress : (s.sendAddress a).reg r = s.reg r := rfl
@[simp] theorem State.reg_stop : (s.stop).reg r = s.reg r := rfl
@[simp] theorem State.reg_store : (s.store a v).reg r = s.reg r := by simp [State.reg]
@[simp] theorem State.reg_strobe : (s.strobe a v).reg r = s.reg r := by simp [State.reg]
@[simp] theorem State.reg_directWrite : (s.directWrite a v).reg r = s.reg r := by simp [State.reg]
@[simp] theorem State.reg_addressRead : (s.addressRead a).2.reg r = s.reg r := rfl
@[simp] theorem State.reg_directRead : (s.directRead a).2.reg r = s.reg r := rfl
@[simp] theorem State.reg_busWrite : (s.busWrite a v).reg r = s.reg r := by simp [State.reg]
@[simp] theorem State.reg_busRead : (s.busRead a).2.reg r = s.reg r := rfl

/-- Two register files with the same contents are the same. -/
theorem Regs.ext_get (x y : Regs) (h : ∀ r, x.get r = y.get r) : x = y := by
  cases x
  cases y
  simpa [Regs.get] using And.intro (h .r0) (And.intro (h .r1) (And.intro (h .r2) (And.intro (h .r3)
    (And.intro (h .r4) (And.intro (h .r5) (And.intro (h .r6) (h .r7)))))))

end Sys2Proof.Machine
end

