-- ==== Sys2Proof/Laws/Ops.lean ====
section
/-! SUPPORT. For each shared operation, one lemma that says everything it can do. -/

namespace Sys2Proof.Machine

variable {s t : State}

/-! Refusal after SDBD -/

theorem State.unlessDbl_next {k : State → State} :
    s.unlessDbl k = .next t ↔ s.dbl = false ∧ t = k s := by
  unfold State.unlessDbl
  cases s.dbl <;> simp [eq_comm]

theorem State.unlessDbl_refused {k : State → State} {r : Refusal} :
    s.unlessDbl k = .refused r ↔ s.dbl = true ∧ r = .doubleByteNotForThisInstruction := by
  unfold State.unlessDbl
  cases s.dbl <;> simp [eq_comm]

/-! Operand forms -/

theorem State.inputDirect_next {a : Word} {k : Word → State → State} :
    s.inputDirect a k = .next t ↔ s.dbl = false ∧ t = k (s.busValue a) (s.directRead a).2 := by
  unfold State.inputDirect
  cases s.dbl <;> simp [State.directRead, State.gateOnBus, eq_comm]

theorem State.inputImmediate_next {v : Word} {k : Word → State → State} :
    s.inputImmediate v k = .next t ↔ t = k v (s.setDbl false) := by
  simp [State.inputImmediate, eq_comm]

theorem State.inputIndirect_next {m : Reg} {k : Word → State → State} :
    s.inputIndirect m k = .next t ↔
      (s.dbl = false ∧ t = k (s.pointerOperand m).1 (s.pointerOperand m).2) ∨
      (s.dbl = true ∧ m ≠ .r6 ∧
        t = k ((s.setDbl false).doubleOperand m).1 ((s.setDbl false).doubleOperand m).2) := by
  unfold State.inputIndirect
  by_cases h6 : m = .r6 <;> cases s.dbl <;> simp [h6] <;> exact eq_comm

theorem State.outputIndirect_next {src m : Reg} :
    s.outputIndirect src m = .next t ↔
      s.dbl = false ∧ ¬(src = m ∧ autoUpdated m = true) ∧
        t = (s.outputAddress m).2.busWrite (s.outputAddress m).1 ((s.outputAddress m).2.reg src) := by
  unfold State.outputIndirect
  by_cases hu : src = m ∧ autoUpdated m = true <;> cases s.dbl <;> simp [hu] <;> exact eq_comm

/-- The address of an input is the pointer, or one less for the stack pointer. -/
theorem State.inputAddress_value (m : Reg) :
    (s.inputAddress m).1 = if m = .r6 then s.reg .r6 - 1 else s.reg m := by
  unfold State.inputAddress
  cases m <;> rfl

/-- The pointer after an input: stepped back for R6, on for R4, R5 and R7. -/
theorem State.inputAddress_state (m : Reg) :
    (s.inputAddress m).2 =
      if m = .r6 then s.setReg .r6 (s.reg .r6 - 1)
      else if autoUpdated m then s.setReg m (s.reg m + 1) else s := by
  unfold State.inputAddress
  cases m <;> rfl

theorem State.outputAddress_value (m : Reg) : (s.outputAddress m).1 = s.reg m := by
  unfold State.outputAddress
  cases m <;> rfl

theorem State.outputAddress_state (m : Reg) :
    (s.outputAddress m).2 = if autoUpdated m then s.setReg m (s.reg m + 1) else s := by
  unfold State.outputAddress
  cases m <;> rfl

/-! Narrow memory -/

theorem lowMask_getLsbD {n k : Nat} (hk : k < 16) : (lowMask n).getLsbD k = decide (k < n) := by
  have e : ∀ m, (BitVec.ofNat 16 (2 ^ m - 1)).getLsbD k = decide (k < m) := fun m => by
    rw [BitVec.getLsbD_ofNat, Nat.testBit_two_pow_sub_one]
    simp [hk]
  exact e n

/-- A location puts out its own bits below its width, and the undriven lines above. -/
theorem drive_getLsbD {n k : Nat} (a v : Word) (hk : k < 16) :
    (drive n a v).getLsbD k = if k < n then v.getLsbD k else (Config.undriven a).getLsbD k := by
  unfold drive
  split
  · rw [if_pos (by omega)]
  · rw [BitVec.getLsbD_or, BitVec.getLsbD_and, BitVec.getLsbD_and, BitVec.getLsbD_not, lowMask_getLsbD hk]
    split <;> simp [*]

/-- A location keeps the bits below its width. -/
theorem keep_getLsbD {n k : Nat} (v : Word) (hk : k < 16) :
    (keep n v).getLsbD k = (decide (k < n) && v.getLsbD k) := by
  unfold keep
  split
  · rw [decide_eq_true (by omega), Bool.true_and]
  · rw [BitVec.getLsbD_and, lowMask_getLsbD hk, Bool.and_comm]

/-- Memory answers with its word; the rest with a free value. -/
theorem State.busValue_eq (a : Word) :
    s.busValue a = if s.plat.kindOf a = .ram ∨ s.plat.kindOf a = .rom
                   then drive (s.plat.widthOf a) a (s.mem.readWord a) else Config.busWord s.oracle := by
  unfold State.busValue
  cases s.plat.kindOf a <;> simp

/-! The bus -/

/-- A write to plain read/write memory stores the word; any other location keeps the memory. -/
theorem State.store_eq (a v : Word) :
    s.store a v = { s with mem := if s.plat.kindOf a = .ram
                                  then s.mem.writeWord a (keep (s.plat.widthOf a) v) else s.mem } := by
  unfold State.store
  cases h : s.plat.kindOf a <;> simp

theorem State.store_mem (a v : Word) :
    (s.store a v).mem = if s.plat.kindOf a = .ram
                        then s.mem.writeWord a (keep (s.plat.widthOf a) v) else s.mem := by
  rw [State.store_eq]

theorem State.store_wf (a v : Word) (h : s.mem.wf = true) : (s.store a v).mem.wf = true := by
  rw [State.store_mem]
  split
  · exact Memory.wf_writeWord a _ h
  · exact h

theorem State.busWrite_wf (a v : Word) (h : s.mem.wf = true) : (s.busWrite a v).mem.wf = true :=
  State.store_wf a v h

/-- A bus write changes no word but the one at its address. -/
theorem State.busWrite_readWord_other {a b : Word} (h : b ≠ a) (v : Word) :
    (s.busWrite a v).mem.readWord b = s.mem.readWord b := by
  rw [State.busWrite_mem, State.store_mem]
  split
  · exact Memory.readWord_writeWord_other h _ _
  · rfl

/-- The writes of other masters change the memory alone. -/
theorem State.dmaWrites_eq (ws : List (Word × Word)) (s : State) :
    s.dmaWrites ws = { s with mem := (s.dmaWrites ws).mem } := by
  induction ws generalizing s with
  | nil => rfl
  | cons w ws ih =>
    obtain ⟨a, v⟩ := w
    rw [State.dmaWrites, ih (s.store a v), State.store_eq]

theorem State.dmaWrites_append (ws ws' : List (Word × Word)) (s : State) :
    s.dmaWrites (ws ++ ws') = (s.dmaWrites ws).dmaWrites ws' := by
  induction ws generalizing s with
  | nil => rfl
  | cons w ws ih => exact ih _

theorem State.dmaWrites_wf (ws : List (Word × Word)) (s : State) (h : s.mem.wf = true) :
    (s.dmaWrites ws).mem.wf = true := by
  induction ws generalizing s with
  | nil => exact h
  | cons w ws ih => exact ih _ (State.store_wf _ _ h)

/-! Jumps and branches -/

theorem State.jump_none (intff : Option Bool) (a : Word) :
    s.jump none intff a = { s with regs := s.regs.set .r7 a, intff := intff.getD s.intff } := by
  cases intff <;> rfl

theorem State.jump_some (r : Reg) (intff : Option Bool) (a : Word) :
    s.jump (some r) intff a =
      { s with regs := (s.regs.set r s.pc).set .r7 a, intff := intff.getD s.intff } := by
  cases intff <;> rfl

theorem State.branchIf_eq (taken : Bool) (dir : Dir) (disp : Word) :
    s.branchIf taken dir disp =
      { s with regs := if taken then s.regs.set .r7 (branchTarget s.pc dir disp) else s.regs } := by
  cases taken <;> rfl

/-! The adder -/

theorem add17_sum (a b : Word) (cin : Bool) : (add17 a b cin).sum = a + b + (if cin then 1 else 0) := by
  apply BitVec.eq_of_toNat_eq
  cases cin <;> simp [add17, BitVec.toNat_add, BitVec.extractLsb'_toNat]

theorem add17_cout (a b : Word) (cin : Bool) :
    (add17 a b cin).cout = decide (65536 ≤ a.toNat + b.toNat + cin.toNat) := by
  have ha := a.isLt
  have hb := b.isLt
  cases cin <;>
    simp [add17, BitVec.getLsbD, Nat.testBit_eq_decide_div_mod_eq, BitVec.toNat_add] <;> omega

/-- Overflow says that the exact signed sum is out of range. -/
theorem add17_ovf (a b : Word) (cin : Bool) :
    (add17 a b cin).ovf =
      decide (a.toInt + b.toInt + cin.toInt < -32768 ∨ 32767 < a.toInt + b.toInt + cin.toInt) := by
  have ha := a.isLt
  have hb := b.isLt
  have hs : (add17 a b cin).sum.toNat = (a.toNat + b.toNat + cin.toNat) % 65536 := by
    rw [add17_sum]
    cases cin <;> simp [BitVec.toNat_add]
  have hdef : (add17 a b cin).ovf =
      (a.msb == b.msb && (add17 a b cin).sum.msb != a.msb) := rfl
  rw [hdef, Bool.eq_iff_iff]
  simp only [Bool.and_eq_true, beq_iff_eq, bne_iff_ne, ne_eq, decide_eq_true_eq,
    BitVec.msb_eq_decide, hs, BitVec.toInt_eq_toNat_cond, decide_eq_decide]
  cases cin <;> simp only [Bool.toNat, Bool.toInt, cond_true, cond_false] <;> split <;> split <;> omega

theorem sub17_sum (a b : Word) : (sub17 a b).sum = a - b := by
  have hb := b.isLt
  have ha := a.isLt
  have h1 : (1 : Word).toNat = 1 := rfl
  rw [sub17, add17_sum, if_pos rfl]
  apply BitVec.eq_of_toNat_eq
  simp only [BitVec.toNat_add, BitVec.toNat_not, BitVec.toNat_sub, h1]
  omega

/-- The carry of a subtraction says that there was no borrow. -/
theorem sub17_cout (a b : Word) : (sub17 a b).cout = decide (b.toNat ≤ a.toNat) := by
  have hb := b.isLt
  have ha := a.isLt
  simp [sub17, add17_cout]
  omega

theorem sub17_ovf (a b : Word) :
    (sub17 a b).ovf = decide (a.toInt - b.toInt < -32768 ∨ 32767 < a.toInt - b.toInt) := by
  have hb := b.isLt
  have ha := a.isLt
  simp only [sub17, add17_ovf, decide_eq_decide]
  simp only [BitVec.toInt_eq_toNat_cond, BitVec.toNat_not, Bool.toInt]
  split <;> split <;> split <;> simp only [cond_true] <;> omega

theorem msb_eq_neg (r : Word) : r.msb = decide (r.toInt < 0) := by
  have := r.isLt
  rw [BitVec.msb_eq_decide, decide_eq_decide, BitVec.toInt_eq_toNat_cond]
  split <;> omega

/-! Operands through a pointer -/

/-- What a location puts on the bus does not depend on the registers, the flag D or the event log. -/
@[simp] theorem State.busValue_setReg (r : Reg) (v a : Word) : (s.setReg r v).busValue a = s.busValue a := rfl
@[simp] theorem State.busValue_setDbl (b : Bool) (a : Word) : (s.setDbl b).busValue a = s.busValue a := rfl
@[simp] theorem State.busValue_sendAddress (a b : Word) : (s.sendAddress a).busValue b = s.busValue b := rfl
@[simp] theorem State.busValue_emit (e : Event) (a : Word) : (s.emit e).busValue a = s.busValue a := rfl

/-- A single operand: one read, and no register but the pointer that its mode steps changes. -/
theorem State.pointerOperand_eq (s : State) (m : Reg) :
    ∃ a v regs, a = (if m = .r6 then s.reg .r6 - 1 else s.reg m) ∧ v = s.busValue a ∧
      s.pointerOperand m =
        (v, { s with regs := regs, oracle := s.oracle + 1, events := .dtb v :: .nact :: .bar a :: s.events }) ∧
      ∀ r, (r ≠ m ∨ autoUpdated m = false) → regs.get r = s.regs.get r := by
  cases m <;> refine ⟨_, _, _, rfl, rfl, rfl, ?_⟩ <;> intro r hr <;> simp [autoUpdated] at hr <;>
    simp [hr, State.setReg, State.emit]

/-- A double byte operand: two reads, and no register but the pointer that its mode steps changes. -/
theorem State.doubleOperand_eq (s : State) (m : Reg) :
    ∃ a v b w regs, a = (if m = .r6 then s.reg .r6 - 1 else s.reg m) ∧ v = s.busValue a ∧
      b = (if m = .r6 then s.reg .r6 - 1 - 1 else if autoUpdated m then s.reg m + 1 else s.reg m) ∧
      w = s.consult.busValue b ∧
      s.doubleOperand m =
        (doubleByte v w, { s with regs := regs, oracle := s.oracle + 2,
                                  events := .dtb w :: .nact :: .bar b :: .dtb v :: .nact :: .bar a :: s.events }) ∧
      ∀ r, (r ≠ m ∨ autoUpdated m = false) → regs.get r = s.regs.get r := by
  obtain ⟨a, v, regs, ha, hv, he, hr⟩ := State.pointerOperand_eq s m
  obtain ⟨b, w, regs', hb, hw, he', hr'⟩ := State.pointerOperand_eq (s.pointerOperand m).2 m
  refine ⟨a, v, b, w, regs', ha, hv, ?_, ?_, ?_, fun r h => ?_⟩
  · rw [hb]
    cases m <;> rfl
  · rw [hw, he]
    rfl
  · show (doubleByte (s.pointerOperand m).1 ((s.pointerOperand m).2.pointerOperand m).1,
      ((s.pointerOperand m).2.pointerOperand m).2) = _
    rw [he', he]
  · rw [hr' r h, he, hr r h]

/-- The value of two words of double byte data. -/
theorem doubleByte_toNat (first second : Word) :
    (doubleByte first second).toNat = second.toNat % 256 * 256 + first.toNat % 256 := by
  simp only [doubleByte, bits]
  rw [BitVec.toNat_append, ← Nat.shiftLeft_add_eq_or_of_lt (BitVec.isLt _)]
  simp [Nat.shiftLeft_eq]

/-! Return from an interrupt -/

/-- The shared return from an interrupt is what PULR R7 does. -/
theorem execPulr_r7 (h : s.dbl = false) : execPulr .r7 s = .next s.returnFromInterrupt := by
  simp [execPulr, State.inputIndirect, h, State.pointerOperand, State.inputAddress, State.load,
    State.returnFromInterrupt, State.setPc, State.busRead]

end Sys2Proof.Machine
end

