-- ==== Sys2Proof/Laws/PerInstr.lean ====
section
/-! SUPPORT. Statements made per instruction, one lemma per constructor. -/

/-- The core instruction that an instruction stands for is itself core, and has an encoding if the instruction
has; an instruction has one to three words. -/
def Sys2Proof.Laws.Canonical.Statement (i : Sys2Proof.Instr) : Prop :=
  i.canonical.canonical = i.canonical ∧ (i.WellFormed → i.canonical.WellFormed) ∧
    ∀ dbl, 1 ≤ (Sys2Proof.encode dbl i).length ∧ (Sys2Proof.encode dbl i).length ≤ 3

namespace Sys2Proof.Laws.Canonical

theorem hlt : Statement .hlt :=
  ⟨rfl, fun h => h, fun _ => ⟨Nat.le_add_left 1 _, Nat.le_of_ble_eq_true rfl⟩⟩

theorem sdbd : Statement .sdbd :=
  ⟨rfl, fun h => h, fun _ => ⟨Nat.le_add_left 1 _, Nat.le_of_ble_eq_true rfl⟩⟩

theorem eis : Statement .eis :=
  ⟨rfl, fun h => h, fun _ => ⟨Nat.le_add_left 1 _, Nat.le_of_ble_eq_true rfl⟩⟩

theorem dis : Statement .dis :=
  ⟨rfl, fun h => h, fun _ => ⟨Nat.le_add_left 1 _, Nat.le_of_ble_eq_true rfl⟩⟩

theorem tci : Statement .tci :=
  ⟨rfl, fun h => h, fun _ => ⟨Nat.le_add_left 1 _, Nat.le_of_ble_eq_true rfl⟩⟩

theorem clrc : Statement .clrc :=
  ⟨rfl, fun h => h, fun _ => ⟨Nat.le_add_left 1 _, Nat.le_of_ble_eq_true rfl⟩⟩

theorem setc : Statement .setc :=
  ⟨rfl, fun h => h, fun _ => ⟨Nat.le_add_left 1 _, Nat.le_of_ble_eq_true rfl⟩⟩

theorem j (address : Word) : Statement (.j address) :=
  ⟨rfl, fun h => h, fun _ => ⟨Nat.le_add_left 1 _, Nat.le_of_ble_eq_true rfl⟩⟩

theorem je (address : Word) : Statement (.je address) :=
  ⟨rfl, fun h => h, fun _ => ⟨Nat.le_add_left 1 _, Nat.le_of_ble_eq_true rfl⟩⟩

theorem jd (address : Word) : Statement (.jd address) :=
  ⟨rfl, fun h => h, fun _ => ⟨Nat.le_add_left 1 _, Nat.le_of_ble_eq_true rfl⟩⟩

theorem jsr (link : Reg) (address : Word) : Statement (.jsr link address) :=
  ⟨rfl, fun h => h, fun _ => ⟨Nat.le_add_left 1 _, Nat.le_of_ble_eq_true rfl⟩⟩

theorem jsre (link : Reg) (address : Word) : Statement (.jsre link address) :=
  ⟨rfl, fun h => h, fun _ => ⟨Nat.le_add_left 1 _, Nat.le_of_ble_eq_true rfl⟩⟩

theorem jsrd (link : Reg) (address : Word) : Statement (.jsrd link address) :=
  ⟨rfl, fun h => h, fun _ => ⟨Nat.le_add_left 1 _, Nat.le_of_ble_eq_true rfl⟩⟩

theorem undefJumpDe11 (bb : BitVec 2) (address : Word) : Statement (.undefJumpDe11 bb address) :=
  ⟨rfl, fun h => h, fun _ => ⟨Nat.le_add_left 1 _, Nat.le_of_ble_eq_true rfl⟩⟩

theorem incr (d : Reg) : Statement (.incr d) :=
  ⟨rfl, fun h => h, fun _ => ⟨Nat.le_add_left 1 _, Nat.le_of_ble_eq_true rfl⟩⟩

theorem decr (d : Reg) : Statement (.decr d) :=
  ⟨rfl, fun h => h, fun _ => ⟨Nat.le_add_left 1 _, Nat.le_of_ble_eq_true rfl⟩⟩

theorem comr (d : Reg) : Statement (.comr d) :=
  ⟨rfl, fun h => h, fun _ => ⟨Nat.le_add_left 1 _, Nat.le_of_ble_eq_true rfl⟩⟩

theorem negr (d : Reg) : Statement (.negr d) :=
  ⟨rfl, fun h => h, fun _ => ⟨Nat.le_add_left 1 _, Nat.le_of_ble_eq_true rfl⟩⟩

theorem adcr (d : Reg) : Statement (.adcr d) :=
  ⟨rfl, fun h => h, fun _ => ⟨Nat.le_add_left 1 _, Nat.le_of_ble_eq_true rfl⟩⟩

theorem rswd (s : Reg) : Statement (.rswd s) :=
  ⟨rfl, fun h => h, fun _ => ⟨Nat.le_add_left 1 _, Nat.le_of_ble_eq_true rfl⟩⟩

theorem gswd (d : Reg) : Statement (.gswd d) :=
  ⟨rfl, fun h => h, fun _ => ⟨Nat.le_add_left 1 _, Nat.le_of_ble_eq_true rfl⟩⟩

theorem nop (n : Bool) : Statement (.nop n) :=
  ⟨rfl, fun h => h, fun _ => ⟨Nat.le_add_left 1 _, Nat.le_of_ble_eq_true rfl⟩⟩

theorem sin (n : Bool) : Statement (.sin n) :=
  ⟨rfl, fun h => h, fun _ => ⟨Nat.le_add_left 1 _, Nat.le_of_ble_eq_true rfl⟩⟩

theorem swap (r : Reg) (n : Count) : Statement (.swap r n) :=
  ⟨rfl, fun h => h, fun _ => ⟨Nat.le_add_left 1 _, Nat.le_of_ble_eq_true rfl⟩⟩

theorem sll (r : Reg) (n : Count) : Statement (.sll r n) :=
  ⟨rfl, fun h => h, fun _ => ⟨Nat.le_add_left 1 _, Nat.le_of_ble_eq_true rfl⟩⟩

theorem rlc (r : Reg) (n : Count) : Statement (.rlc r n) :=
  ⟨rfl, fun h => h, fun _ => ⟨Nat.le_add_left 1 _, Nat.le_of_ble_eq_true rfl⟩⟩

theorem sllc (r : Reg) (n : Count) : Statement (.sllc r n) :=
  ⟨rfl, fun h => h, fun _ => ⟨Nat.le_add_left 1 _, Nat.le_of_ble_eq_true rfl⟩⟩

theorem slr (r : Reg) (n : Count) : Statement (.slr r n) :=
  ⟨rfl, fun h => h, fun _ => ⟨Nat.le_add_left 1 _, Nat.le_of_ble_eq_true rfl⟩⟩

theorem sar (r : Reg) (n : Count) : Statement (.sar r n) :=
  ⟨rfl, fun h => h, fun _ => ⟨Nat.le_add_left 1 _, Nat.le_of_ble_eq_true rfl⟩⟩

theorem rrc (r : Reg) (n : Count) : Statement (.rrc r n) :=
  ⟨rfl, fun h => h, fun _ => ⟨Nat.le_add_left 1 _, Nat.le_of_ble_eq_true rfl⟩⟩

theorem sarc (r : Reg) (n : Count) : Statement (.sarc r n) :=
  ⟨rfl, fun h => h, fun _ => ⟨Nat.le_add_left 1 _, Nat.le_of_ble_eq_true rfl⟩⟩

theorem movr (s d : Reg) : Statement (.movr s d) :=
  ⟨rfl, fun h => h, fun _ => ⟨Nat.le_add_left 1 _, Nat.le_of_ble_eq_true rfl⟩⟩

theorem addr (s d : Reg) : Statement (.addr s d) :=
  ⟨rfl, fun h => h, fun _ => ⟨Nat.le_add_left 1 _, Nat.le_of_ble_eq_true rfl⟩⟩

theorem subr (s d : Reg) : Statement (.subr s d) :=
  ⟨rfl, fun h => h, fun _ => ⟨Nat.le_add_left 1 _, Nat.le_of_ble_eq_true rfl⟩⟩

theorem cmpr (s d : Reg) : Statement (.cmpr s d) :=
  ⟨rfl, fun h => h, fun _ => ⟨Nat.le_add_left 1 _, Nat.le_of_ble_eq_true rfl⟩⟩

theorem andr (s d : Reg) : Statement (.andr s d) :=
  ⟨rfl, fun h => h, fun _ => ⟨Nat.le_add_left 1 _, Nat.le_of_ble_eq_true rfl⟩⟩

theorem xorr (s d : Reg) : Statement (.xorr s d) :=
  ⟨rfl, fun h => h, fun _ => ⟨Nat.le_add_left 1 _, Nat.le_of_ble_eq_true rfl⟩⟩

theorem b (dir : Dir) (disp : Word) : Statement (.b dir disp) :=
  ⟨rfl, fun h => h, fun _ => ⟨Nat.le_add_left 1 _, Nat.le_of_ble_eq_true rfl⟩⟩

theorem bc (dir : Dir) (disp : Word) : Statement (.bc dir disp) :=
  ⟨rfl, fun h => h, fun _ => ⟨Nat.le_add_left 1 _, Nat.le_of_ble_eq_true rfl⟩⟩

theorem bov (dir : Dir) (disp : Word) : Statement (.bov dir disp) :=
  ⟨rfl, fun h => h, fun _ => ⟨Nat.le_add_left 1 _, Nat.le_of_ble_eq_true rfl⟩⟩

theorem bpl (dir : Dir) (disp : Word) : Statement (.bpl dir disp) :=
  ⟨rfl, fun h => h, fun _ => ⟨Nat.le_add_left 1 _, Nat.le_of_ble_eq_true rfl⟩⟩

theorem bze (dir : Dir) (disp : Word) : Statement (.bze dir disp) :=
  ⟨rfl, fun h => h, fun _ => ⟨Nat.le_add_left 1 _, Nat.le_of_ble_eq_true rfl⟩⟩

theorem blt (dir : Dir) (disp : Word) : Statement (.blt dir disp) :=
  ⟨rfl, fun h => h, fun _ => ⟨Nat.le_add_left 1 _, Nat.le_of_ble_eq_true rfl⟩⟩

theorem ble (dir : Dir) (disp : Word) : Statement (.ble dir disp) :=
  ⟨rfl, fun h => h, fun _ => ⟨Nat.le_add_left 1 _, Nat.le_of_ble_eq_true rfl⟩⟩

theorem busc (dir : Dir) (disp : Word) : Statement (.busc dir disp) :=
  ⟨rfl, fun h => h, fun _ => ⟨Nat.le_add_left 1 _, Nat.le_of_ble_eq_true rfl⟩⟩

theorem nopp (dir : Dir) (disp : Word) : Statement (.nopp dir disp) :=
  ⟨rfl, fun h => h, fun _ => ⟨Nat.le_add_left 1 _, Nat.le_of_ble_eq_true rfl⟩⟩

theorem bnc (dir : Dir) (disp : Word) : Statement (.bnc dir disp) :=
  ⟨rfl, fun h => h, fun _ => ⟨Nat.le_add_left 1 _, Nat.le_of_ble_eq_true rfl⟩⟩

theorem bnov (dir : Dir) (disp : Word) : Statement (.bnov dir disp) :=
  ⟨rfl, fun h => h, fun _ => ⟨Nat.le_add_left 1 _, Nat.le_of_ble_eq_true rfl⟩⟩

theorem bmi (dir : Dir) (disp : Word) : Statement (.bmi dir disp) :=
  ⟨rfl, fun h => h, fun _ => ⟨Nat.le_add_left 1 _, Nat.le_of_ble_eq_true rfl⟩⟩

theorem bnze (dir : Dir) (disp : Word) : Statement (.bnze dir disp) :=
  ⟨rfl, fun h => h, fun _ => ⟨Nat.le_add_left 1 _, Nat.le_of_ble_eq_true rfl⟩⟩

theorem bge (dir : Dir) (disp : Word) : Statement (.bge dir disp) :=
  ⟨rfl, fun h => h, fun _ => ⟨Nat.le_add_left 1 _, Nat.le_of_ble_eq_true rfl⟩⟩

theorem bgt (dir : Dir) (disp : Word) : Statement (.bgt dir disp) :=
  ⟨rfl, fun h => h, fun _ => ⟨Nat.le_add_left 1 _, Nat.le_of_ble_eq_true rfl⟩⟩

theorem besc (dir : Dir) (disp : Word) : Statement (.besc dir disp) :=
  ⟨rfl, fun h => h, fun _ => ⟨Nat.le_add_left 1 _, Nat.le_of_ble_eq_true rfl⟩⟩

theorem bext (dir : Dir) (disp : Word) (e : BitVec 4) : Statement (.bext dir disp e) :=
  ⟨rfl, fun h => h, fun _ => ⟨Nat.le_add_left 1 _, Nat.le_of_ble_eq_true rfl⟩⟩

theorem mvo (s : Reg) (address : Word) : Statement (.mvo s address) :=
  ⟨rfl, fun h => h, fun _ => ⟨Nat.le_add_left 1 _, Nat.le_of_ble_eq_true rfl⟩⟩

theorem mvoi (s : Reg) : Statement (.mvoi s) :=
  ⟨rfl, fun h => h, fun dbl => by cases dbl <;> exact ⟨by simp [encode], by simp [encode]⟩⟩

theorem mvoAt (s m : Reg) : Statement (.mvoAt s m) :=
  ⟨rfl, fun h => h, fun _ => ⟨Nat.le_add_left 1 _, Nat.le_of_ble_eq_true rfl⟩⟩

theorem mvi (address : Word) (d : Reg) : Statement (.mvi address d) :=
  ⟨rfl, fun h => h, fun _ => ⟨Nat.le_add_left 1 _, Nat.le_of_ble_eq_true rfl⟩⟩

theorem mvii (imm : Word) (d : Reg) : Statement (.mvii imm d) :=
  ⟨rfl, fun h => h, fun dbl => by cases dbl <;> exact ⟨by simp [encode, encodeInputImmediate, encodeImmediate], by simp [encode, encodeInputImmediate, encodeImmediate]⟩⟩

theorem mviAt (m d : Reg) : Statement (.mviAt m d) :=
  ⟨rfl, fun h => h, fun _ => ⟨Nat.le_add_left 1 _, Nat.le_of_ble_eq_true rfl⟩⟩

theorem add (address : Word) (d : Reg) : Statement (.add address d) :=
  ⟨rfl, fun h => h, fun _ => ⟨Nat.le_add_left 1 _, Nat.le_of_ble_eq_true rfl⟩⟩

theorem addi (imm : Word) (d : Reg) : Statement (.addi imm d) :=
  ⟨rfl, fun h => h, fun dbl => by cases dbl <;> exact ⟨by simp [encode, encodeInputImmediate, encodeImmediate], by simp [encode, encodeInputImmediate, encodeImmediate]⟩⟩

theorem addAt (m d : Reg) : Statement (.addAt m d) :=
  ⟨rfl, fun h => h, fun _ => ⟨Nat.le_add_left 1 _, Nat.le_of_ble_eq_true rfl⟩⟩

theorem sub (address : Word) (d : Reg) : Statement (.sub address d) :=
  ⟨rfl, fun h => h, fun _ => ⟨Nat.le_add_left 1 _, Nat.le_of_ble_eq_true rfl⟩⟩

theorem subi (imm : Word) (d : Reg) : Statement (.subi imm d) :=
  ⟨rfl, fun h => h, fun dbl => by cases dbl <;> exact ⟨by simp [encode, encodeInputImmediate, encodeImmediate], by simp [encode, encodeInputImmediate, encodeImmediate]⟩⟩

theorem subAt (m d : Reg) : Statement (.subAt m d) :=
  ⟨rfl, fun h => h, fun _ => ⟨Nat.le_add_left 1 _, Nat.le_of_ble_eq_true rfl⟩⟩

theorem cmp (address : Word) (s : Reg) : Statement (.cmp address s) :=
  ⟨rfl, fun h => h, fun _ => ⟨Nat.le_add_left 1 _, Nat.le_of_ble_eq_true rfl⟩⟩

theorem cmpi (imm : Word) (s : Reg) : Statement (.cmpi imm s) :=
  ⟨rfl, fun h => h, fun dbl => by cases dbl <;> exact ⟨by simp [encode, encodeInputImmediate, encodeImmediate], by simp [encode, encodeInputImmediate, encodeImmediate]⟩⟩

theorem cmpAt (m s : Reg) : Statement (.cmpAt m s) :=
  ⟨rfl, fun h => h, fun _ => ⟨Nat.le_add_left 1 _, Nat.le_of_ble_eq_true rfl⟩⟩

theorem and (address : Word) (d : Reg) : Statement (.and address d) :=
  ⟨rfl, fun h => h, fun _ => ⟨Nat.le_add_left 1 _, Nat.le_of_ble_eq_true rfl⟩⟩

theorem andi (imm : Word) (d : Reg) : Statement (.andi imm d) :=
  ⟨rfl, fun h => h, fun dbl => by cases dbl <;> exact ⟨by simp [encode, encodeInputImmediate, encodeImmediate], by simp [encode, encodeInputImmediate, encodeImmediate]⟩⟩

theorem andAt (m d : Reg) : Statement (.andAt m d) :=
  ⟨rfl, fun h => h, fun _ => ⟨Nat.le_add_left 1 _, Nat.le_of_ble_eq_true rfl⟩⟩

theorem xor (address : Word) (d : Reg) : Statement (.xor address d) :=
  ⟨rfl, fun h => h, fun _ => ⟨Nat.le_add_left 1 _, Nat.le_of_ble_eq_true rfl⟩⟩

theorem xori (imm : Word) (d : Reg) : Statement (.xori imm d) :=
  ⟨rfl, fun h => h, fun dbl => by cases dbl <;> exact ⟨by simp [encode, encodeInputImmediate, encodeImmediate], by simp [encode, encodeInputImmediate, encodeImmediate]⟩⟩

theorem xorAt (m d : Reg) : Statement (.xorAt m d) :=
  ⟨rfl, fun h => h, fun _ => ⟨Nat.le_add_left 1 _, Nat.le_of_ble_eq_true rfl⟩⟩

theorem tstr (s : Reg) : Statement (.tstr s) :=
  ⟨rfl, fun _ => rfl, fun _ => ⟨Nat.le_add_left 1 _, Nat.le_of_ble_eq_true rfl⟩⟩

theorem jr (s : Reg) : Statement (.jr s) :=
  ⟨rfl, fun _ => rfl, fun _ => ⟨Nat.le_add_left 1 _, Nat.le_of_ble_eq_true rfl⟩⟩

theorem clrr (d : Reg) : Statement (.clrr d) :=
  ⟨rfl, fun _ => rfl, fun _ => ⟨Nat.le_add_left 1 _, Nat.le_of_ble_eq_true rfl⟩⟩

theorem pshr (s : Reg) : Statement (.pshr s) :=
  ⟨rfl, fun _ => rfl, fun _ => ⟨Nat.le_add_left 1 _, Nat.le_of_ble_eq_true rfl⟩⟩

theorem pulr (d : Reg) : Statement (.pulr d) :=
  ⟨rfl, fun _ => rfl, fun _ => ⟨Nat.le_add_left 1 _, Nat.le_of_ble_eq_true rfl⟩⟩

theorem blgt (dir : Dir) (disp : Word) : Statement (.blgt dir disp) :=
  ⟨rfl, fun _ => rfl, fun _ => ⟨Nat.le_add_left 1 _, Nat.le_of_ble_eq_true rfl⟩⟩

theorem bllt (dir : Dir) (disp : Word) : Statement (.bllt dir disp) :=
  ⟨rfl, fun _ => rfl, fun _ => ⟨Nat.le_add_left 1 _, Nat.le_of_ble_eq_true rfl⟩⟩

theorem beq (dir : Dir) (disp : Word) : Statement (.beq dir disp) :=
  ⟨rfl, fun _ => rfl, fun _ => ⟨Nat.le_add_left 1 _, Nat.le_of_ble_eq_true rfl⟩⟩

theorem bneq (dir : Dir) (disp : Word) : Statement (.bneq dir disp) :=
  ⟨rfl, fun _ => rfl, fun _ => ⟨Nat.le_add_left 1 _, Nat.le_of_ble_eq_true rfl⟩⟩

end Sys2Proof.Laws.Canonical
end

