-- ==== Sys2Proof/Laws/Step.lean ====
section
/-! SUPPORT. What a step, the fetch and the attention to the pins can do, said once. -/

namespace Sys2Proof.Machine

variable {s t u : State}

/-- A next state comes of attending to the pins or of an instruction. -/
theorem step_next : step s = .next t ↔
    s.attend = .acted t ∨ ∃ u, s.attend = .fetch u ∧ runInstruction u = .next t := by
  unfold step
  cases s.attend <;> simp

/-- An instruction that runs is ended by `State.finish`. -/
theorem runInstruction_next : runInstruction s = .next t ↔
    ∃ u, exec s.fetch.1 s.fetch.2 = .next u ∧ t = s.fetch.2.finish s.fetch.1 u := by
  unfold runInstruction
  cases exec s.fetch.1 s.fetch.2 <;> simp [eq_comm]

/-- A word of an instruction: one read through the program counter, which steps past it. -/
theorem State.fetchWord_state (s : State) :
    s.fetchWord.2 = { s with
      regs := s.regs.set .r7 (s.pc + 1)
      oracle := s.oracle + 1
      events := .dtb (s.busValue s.pc) :: .nact :: .bar s.pc :: s.events } := rfl

/-- A direct address: one read through the program counter, which steps past it, for the address register. -/
theorem State.fetchAddress_state (s : State) :
    s.fetchAddress.2 = { s with
      regs := s.regs.set .r7 (s.pc + 1)
      oracle := s.oracle + 1
      events := .nact :: .adar (s.busValue s.pc) :: .nact :: .bar s.pc :: s.events } := by
  simp only [State.fetchAddress, State.addressRead, State.gateOnBus, State.sendAddress, State.emit, State.consult,
    State.setPc, State.setReg]
  rfl

/-- The latching of an instruction shows its low four bits on EBCA, and NACT follows. -/
theorem State.latchInstruction_state (s : State) (w : Word) :
    s.latchInstruction w = { s with events := .nact :: .select (bits w 0 4) :: s.events } := rfl

@[simp] theorem State.reg_latchInstruction (s : State) (w : Word) (r : Reg) :
    (s.latchInstruction w).reg r = s.reg r := rfl

/-- The fetch changes the program counter, the event log and the count of consultations. -/
theorem State.fetch_state (s : State) :
    s.fetch.2 = { s with regs := s.fetch.2.regs, oracle := s.fetch.2.oracle, events := s.fetch.2.events } := by
  unfold State.fetch
  simp only [State.latchInstruction_state]
  split
  · rw [State.fetchWord_state]
  · split
    · rw [State.fetchAddress_state, State.fetchWord_state]
    · rw [State.fetchWord_state, State.fetchWord_state]
  · rw [State.fetchWord_state, State.fetchWord_state, State.fetchWord_state]

/-- No register but the program counter changes in the fetch. -/
theorem State.fetch_reg (s : State) {r : Reg} (h : r ≠ .r7) : s.fetch.2.reg r = s.reg r := by
  have hw : ∀ u : State, u.fetchWord.2.reg r = u.reg r := fun u => by
    simp [State.fetchWord, State.reg, h]
  have ha : ∀ u : State, u.fetchAddress.2.reg r = u.reg r := fun u => by
    simp [State.fetchAddress, State.reg, h]
  unfold State.fetch
  simp only
  split
  · rw [State.reg_latchInstruction, hw]
  · split <;> simp only [hw, ha, State.reg_latchInstruction]
  · simp only [hw, State.reg_latchInstruction]

/-- The interrupt sequence as one update. -/
theorem State.takeInterrupt_eq (s : State) :
    s.takeInterrupt = { s with
      regs := (s.regs.set .r6 (s.reg .r6 + 1)).set .r7 s.pins.vector
      boundaryOpen := false
      mem := (s.store (s.reg .r6) (s.reg .r7)).mem
      events := .iab s.pins.vector :: .dws (s.reg .r7) :: .dw (s.reg .r7) :: .intak (s.reg .r6) :: s.events } := by
  simp [State.takeInterrupt, State.strobe, State.emit, State.store_eq, State.setReg, State.setPc, State.pc]
  simp [State.reg]

/-- A grant changes the memory and the ownership of the bus, with NACT on it. -/
theorem State.grantBus_eq (s : State) :
    s.grantBus = { s with busReleased := true, mem := s.grantBus.mem, events := .nact :: s.events } := by
  rw [State.grantBus, State.dmaWrites_eq]; rfl

theorem State.grantBus_wf (h : s.mem.wf = true) : s.grantBus.mem.wf = true :=
  State.dmaWrites_wf _ _ h

/-- What an instruction's end leaves of the state. -/
theorem State.finish_eq (before : State) (i : Instr) (after : State) :
    before.finish i after = { after with
      cycles := after.cycles + i.cycles before
      events := List.replicate (i.idleStates before) .nact ++ after.events
      run := if before.haltPending then .stopped else after.run
      haltPending := if before.haltPending then false else after.haltPending
      boundaryOpen := !before.haltPending && (i.interruptable before.plat && after.run == .running) } := by
  unfold State.finish
  cases before.haltPending <;> rfl

end Sys2Proof.Machine
end

