-- ==== Sys2Proof/Tests/Slice0.lean ====
section
/-! SUPPORT. The model's own tests: one ill-formed term for each check of WellFormed, the words of every
instruction written out from the spec's formats, one step on the vectors of spec/95_test_vectors.md
(named T<n> there), and for each obligation with hypotheses a case that meets them. -/

namespace Sys2Proof.Tests

open Sys2Proof.Machine Sys2Proof.Claims

/-! WellFormed refuses -/

/-- A pointer field names R1 to R6: 000 is direct, 111 immediate. -/
theorem test_wf_pointer_r0 : ¬(Instr.mviAt .r0 .r1).WellFormed := by decide
theorem test_wf_pointer_r7 : ¬(Instr.mvoAt .r1 .r7).WellFormed := by decide
/-- A shift reaches R0 to R3. -/
theorem test_wf_shift_r4 : ¬(Instr.sll .r4 .one).WellFormed := by decide
/-- GSWD reaches R0 to R3. -/
theorem test_wf_gswd_r4 : ¬(Instr.gswd .r4).WellFormed := by decide
/-- The return address goes to R4, R5 or R6. -/
theorem test_wf_link_r3 : ¬(Instr.jsr .r3 0).WellFormed := by decide
theorem test_wf_link_r7 : ¬(Instr.jsre .r7 0).WellFormed := by decide

/-! Words, bit by bit as spec/30_encoding.md writes them -/


theorem test_decode_control :
    decode false 0b0000000000 0 0 = .hlt ∧
    decode false 0b0000000001 0 0 = .sdbd ∧
    decode false 0b0000000010 0 0 = .eis ∧
    decode false 0b0000000011 0 0 = .dis ∧
    decode false 0b0000000101 0 0 = .tci ∧
    decode false 0b0000000110 0 0 = .clrc ∧
    decode false 0b0000000111 0 0 = .setc := by decide

theorem test_decode_jump :
    decode false 0b0000000100 0b1100010000 0b1000110100 = .j 0x1234 ∧
    decode false 0b0000000100 0b1100010001 0b1000110100 = .je 0x1234 ∧
    decode false 0b0000000100 0b1100010010 0b1000110100 = .jd 0x1234 ∧
    decode false 0b0000000100 0b0100010000 0b1000110100 = .jsr .r5 0x1234 ∧
    decode false 0b0000000100 0b0011111101 0b1111111111 = .jsre .r4 0xFFFF ∧
    decode false 0b0000000100 0b1000000110 0b0000000000 = .jsrd .r6 0x0400 ∧
    decode false 0b0000000100 0b1100000011 0b0000000000 = .undefJumpDe11 3 0 := by decide

theorem test_decode_single :
    decode false 0b0000001011 0 0 = .incr .r3 ∧
    decode false 0b0000010001 0 0 = .decr .r1 ∧
    decode false 0b0000011000 0 0 = .comr .r0 ∧
    decode false 0b0000100001 0 0 = .negr .r1 ∧
    decode false 0b0000101111 0 0 = .adcr .r7 ∧
    decode false 0b0000110010 0 0 = .gswd .r2 ∧
    decode false 0b0000110100 0 0 = .nop false ∧
    decode false 0b0000110111 0 0 = .sin true ∧
    decode false 0b0000111110 0 0 = .rswd .r6 := by decide

theorem test_decode_shift :
    decode false 0b0001000001 0 0 = .swap .r1 .one ∧
    decode false 0b0001001100 0 0 = .sll .r0 .two ∧
    decode false 0b0001010010 0 0 = .rlc .r2 .one ∧
    decode false 0b0001011111 0 0 = .sllc .r3 .two ∧
    decode false 0b0001100001 0 0 = .slr .r1 .one ∧
    decode false 0b0001101101 0 0 = .sar .r1 .two ∧
    decode false 0b0001110000 0 0 = .rrc .r0 .one ∧
    decode false 0b0001111111 0 0 = .sarc .r3 .two := by decide

theorem test_decode_registers :
    decode false 0b0010001010 0 0 = .movr .r1 .r2 ∧
    decode false 0b0011011001 0 0 = .addr .r3 .r1 ∧
    decode false 0b0100001000 0 0 = .subr .r1 .r0 ∧
    decode false 0b0101001000 0 0 = .cmpr .r1 .r0 ∧
    decode false 0b0110001000 0 0 = .andr .r1 .r0 ∧
    decode false 0b0111010000 0 0 = .xorr .r2 .r0 := by decide

theorem test_decode_branch_plain :
    decode false 0b1000000000 5 0 = .b .forward 5 ∧
    decode false 0b1000000001 5 0 = .bc .forward 5 ∧
    decode false 0b1000000010 5 0 = .bov .forward 5 ∧
    decode false 0b1000000011 5 0 = .bpl .forward 5 ∧
    decode false 0b1000000100 5 0 = .bze .forward 5 ∧
    decode false 0b1000000101 5 0 = .blt .forward 5 ∧
    decode false 0b1000000110 5 0 = .ble .forward 5 ∧
    decode false 0b1000000111 5 0 = .busc .forward 5 := by decide

theorem test_decode_branch_inverted :
    decode false 0b1000101000 5 0 = .nopp .backward 5 ∧
    decode false 0b1000101001 5 0 = .bnc .backward 5 ∧
    decode false 0b1000101010 5 0 = .bnov .backward 5 ∧
    decode false 0b1000101011 5 0 = .bmi .backward 5 ∧
    decode false 0b1000101100 5 0 = .bnze .backward 5 ∧
    decode false 0b1000101101 5 0 = .bge .backward 5 ∧
    decode false 0b1000101110 5 0 = .bgt .backward 5 ∧
    decode false 0b1000101111 5 0 = .besc .backward 5 ∧
    decode false 0b1000110101 1 0 = .bext .backward 1 5 := by decide

theorem test_decode_input :
    decode false 0b1010000010 0x0123 0 = .mvi 0x0123 .r2 ∧
    decode false 0b1010100010 0 0 = .mviAt .r4 .r2 ∧
    decode false 0b1010111010 0xFEDC 0 = .mvii 0xFEDC .r2 ∧
    decode false 0b1011000010 0x0123 0 = .add 0x0123 .r2 ∧
    decode false 0b1011100010 0 0 = .addAt .r4 .r2 ∧
    decode false 0b1011111010 0xFEDC 0 = .addi 0xFEDC .r2 ∧
    decode false 0b1100000010 0x0123 0 = .sub 0x0123 .r2 ∧
    decode false 0b1100100010 0 0 = .subAt .r4 .r2 ∧
    decode false 0b1100111010 0xFEDC 0 = .subi 0xFEDC .r2 ∧
    decode false 0b1101000010 0x0123 0 = .cmp 0x0123 .r2 ∧
    decode false 0b1101100010 0 0 = .cmpAt .r4 .r2 ∧
    decode false 0b1101111010 0xFEDC 0 = .cmpi 0xFEDC .r2 ∧
    decode false 0b1110000010 0x0123 0 = .and 0x0123 .r2 ∧
    decode false 0b1110100010 0 0 = .andAt .r4 .r2 ∧
    decode false 0b1110111010 0xFEDC 0 = .andi 0xFEDC .r2 ∧
    decode false 0b1111000010 0x0123 0 = .xor 0x0123 .r2 ∧
    decode false 0b1111100010 0 0 = .xorAt .r4 .r2 ∧
    decode false 0b1111111010 0xFEDC 0 = .xori 0xFEDC .r2 := by decide

theorem test_decode_input_double :
    decode true 0b1010111000 0x0334 0x0312 = .mvii 0x1234 .r0 ∧
    decode true 0b1111111000 0x0034 0x0012 = .xori 0x1234 .r0 := by decide

theorem test_decode_output :
    decode false 0b1001000000 0x0123 0 = .mvo .r0 0x0123 ∧
    decode false 0b1001100010 0 0 = .mvoAt .r2 .r4 ∧
    decode false 0b1001111001 0 0 = .mvoi .r1 := by decide

theorem test_decode_second_names :
    decode false 0b0010011011 0 0 = Instr.canonical (.tstr .r3) ∧
    decode false 0b0010101111 0 0 = Instr.canonical (.jr .r5) ∧
    decode false 0b0111010010 0 0 = Instr.canonical (.clrr .r2) ∧
    decode false 0b1001110011 0 0 = Instr.canonical (.pshr .r3) ∧
    decode false 0b1010110001 0 0 = Instr.canonical (.pulr .r1) ∧
    decode false 0b1000000001 5 0 = Instr.canonical (.blgt .forward 5) ∧
    decode false 0b1000001001 5 0 = Instr.canonical (.bllt .forward 5) ∧
    decode false 0b1000100100 7 0 = Instr.canonical (.beq .backward 7) ∧
    decode false 0b1000101100 10 0 = Instr.canonical (.bneq .backward 10) := by decide

/-! One step -/

/-- The start of the vectors: words at 0x0100, registers, words in memory, status; all else 0. -/
def at100 (words : List Word) (regs : List (Reg × Word)) (data : List (Word × Word)) (f : Status) : State :=
  let s := { State.reset with status := f, mem := Memory.place 0x0100 words [] }
  let s := regs.foldl (fun s x => s.setReg x.1 x.2) (s.setPc 0x0100)
  { s with mem := data.foldl (fun m x => m.writeWord x.1 x.2) s.mem }

/-- The given registers and the status after one step. -/
def after (s : State) (regs : List Reg) : Option (List Word × Status) :=
  match step s with
  | .next t => some (regs.map t.reg, t.status)
  | _ => none

/-- The word at an address after one step. -/
def wordAfter (s : State) (a : Word) : Option Word :=
  match step s with
  | .next t => some (t.mem.readWord a)
  | _ => none

/-- T1. -/
theorem test_mvi_direct : after (at100 [0x0280, 0x0123] [] [(0x0123, 0xBEEF)] ⟨true, true, true, true⟩)
    [.r0, .r7] = some ([0xBEEF, 0x0102], ⟨true, true, true, true⟩) := by decide

/-- T2: the load overwrites the increment. -/
theorem test_mvi_at_own_pointer : after (at100 [0x02A4] [(.r4, 0x0200)] [(0x0200, 0x1234)] ⟨false, false, false, false⟩)
    [.r4, .r7] = some ([0x1234, 0x0101], ⟨false, false, false, false⟩) := by decide

/-- MVII 6,R1 of the BINOCT listing. -/
theorem test_mvii : after (at100 [0x02B9, 0x0006] [] [] ⟨false, false, false, false⟩)
    [.r1, .r7] = some ([0x0006, 0x0102], ⟨false, false, false, false⟩) := by decide

/-- T15: bits 15..8 of both data words are ignored. -/
theorem test_mvii_double : after { at100 [0x02B8, 0x0334, 0x0312] [] [] ⟨false, false, false, false⟩ with dbl := true }
    [.r0, .r7] = some ([0x1234, 0x0103], ⟨false, false, false, false⟩) := by decide

/-- T13. -/
theorem test_mvi_at_double_same_word : after { at100 [0x0288] [(.r1, 0x0200)] [(0x0200, 0x12AB)] ⟨false, false, false, false⟩ with dbl := true }
    [.r0, .r1, .r7] = some ([0xABAB, 0x0200, 0x0101], ⟨false, false, false, false⟩) := by decide

/-- T4. -/
theorem test_pulr_wraps : after (at100 [0x02B0] [] [(0xFFFF, 0x00AA)] ⟨false, false, false, false⟩)
    [.r0, .r6, .r7] = some ([0x00AA, 0xFFFF, 0x0101], ⟨false, false, false, false⟩) := by decide

/-- ADD by R171: FFFF + 2. -/
theorem test_add_direct : after (at100 [0x02C1, 0x0200] [(.r1, 0xFFFF)] [(0x0200, 0x0002)] ⟨false, false, false, false⟩)
    [.r1, .r7] = some ([0x0001, 0x0102], ⟨false, false, true, false⟩) := by decide

/-- T3: the incremented pointer is added to. -/
theorem test_add_at_own_pointer : after (at100 [0x02E4] [(.r4, 0x0200)] [(0x0200, 0x0010)] ⟨false, false, false, false⟩)
    [.r4, .r7] = some ([0x0211, 0x0101], ⟨false, false, false, false⟩) := by decide

/-- T14. -/
theorem test_add_at_double : after { at100 [0x02E0] [(.r0, 0x0001), (.r4, 0x0200)] [(0x0200, 0xFF34), (0x0201, 0xFF12)] ⟨false, false, false, false⟩ with dbl := true }
    [.r0, .r4, .r7] = some ([0x1235, 0x0202, 0x0101], ⟨false, false, false, false⟩) := by decide

/-- T5. -/
theorem test_addi_overflow : after (at100 [0x02F8, 0x0001] [(.r0, 0x7FFF)] [] ⟨false, false, false, false⟩)
    [.r0, .r7] = some ([0x8000, 0x0102], ⟨true, false, false, true⟩) := by decide

/-- T16. -/
theorem test_addi_pc : after (at100 [0x02FF, 0x0010] [] [] ⟨false, false, false, false⟩)
    [.r7] = some ([0x0112], ⟨false, false, false, false⟩) := by decide

/-- SUB by R172: 5 - 6 borrows. -/
theorem test_sub_direct : after (at100 [0x0300, 0x0200] [(.r0, 0x0005)] [(0x0200, 0x0006)] ⟨false, false, false, false⟩)
    [.r0, .r7] = some ([0xFFFF, 0x0102], ⟨true, false, false, false⟩) := by decide

/-- SUB@ R4,R1 of the double precision subtract. -/
theorem test_sub_at : after (at100 [0x0321] [(.r1, 0x0000), (.r4, 0x0200)] [(0x0200, 0x0001)] ⟨false, false, false, false⟩)
    [.r1, .r4, .r7] = some ([0xFFFF, 0x0201, 0x0101], ⟨true, false, false, false⟩) := by decide

/-- T9. -/
theorem test_subi_overflow : after (at100 [0x0338, 0x0001] [(.r0, 0x8000)] [] ⟨false, false, false, false⟩)
    [.r0, .r7] = some ([0x7FFF, 0x0102], ⟨false, false, true, true⟩) := by decide

/-- CMP I,R0 of section 1.5. -/
theorem test_cmp_direct : after (at100 [0x0340, 0x0300] [(.r0, 0x0003)] [(0x0300, 0x0005)] ⟨false, false, false, false⟩)
    [.r0, .r7] = some ([0x0003, 0x0102], ⟨true, false, false, false⟩) := by decide

/-- T11. -/
theorem test_cmp_at_pulls : after (at100 [0x0370] [(.r0, 0x0009), (.r6, 0x0301)] [(0x0300, 0x0009)] ⟨false, false, false, false⟩)
    [.r0, .r6, .r7] = some ([0x0009, 0x0300, 0x0101], ⟨false, true, true, false⟩) := by decide

/-- T12. -/
theorem test_cmpi : after (at100 [0x0379, 0x0005] [(.r1, 0x0003)] [] ⟨false, false, false, false⟩)
    [.r1, .r7] = some ([0x0003, 0x0102], ⟨true, false, false, false⟩) := by decide

/-- AND by R174. -/
theorem test_and_direct : after (at100 [0x0380, 0x0200] [(.r0, 0x1234)] [(0x0200, 0x00FF)] ⟨false, false, true, true⟩)
    [.r0, .r7] = some ([0x0034, 0x0102], ⟨false, false, true, true⟩) := by decide

/-- AND@ by R174, R153. -/
theorem test_and_at : after (at100 [0x0388] [(.r0, 0xF0F0), (.r1, 0x0200)] [(0x0200, 0x8000)] ⟨false, false, false, false⟩)
    [.r0, .r1, .r7] = some ([0x8000, 0x0200, 0x0101], ⟨true, false, false, false⟩) := by decide

/-- T21. -/
theorem test_andi : after (at100 [0x03B8, 0x00FF] [(.r0, 0x1200)] [] ⟨false, false, true, true⟩)
    [.r0, .r7] = some ([0x0000, 0x0102], ⟨false, true, true, true⟩) := by decide

/-- XOR by R175. -/
theorem test_xor_direct : after (at100 [0x03C0, 0x0200] [(.r0, 0x00FF)] [(0x0200, 0xFFFF)] ⟨false, false, false, false⟩)
    [.r0, .r7] = some ([0xFF00, 0x0102], ⟨true, false, false, false⟩) := by decide

/-- T22. -/
theorem test_xor_at_wraps : after (at100 [0x03EA] [(.r2, 0x7FFF), (.r5, 0xFFFF)] [(0xFFFF, 0xFFFF)] ⟨false, false, false, false⟩)
    [.r2, .r5, .r7] = some ([0x8000, 0x0000, 0x0101], ⟨true, false, false, false⟩) := by decide

/-- XORI by R175. -/
theorem test_xori : after (at100 [0x03F8, 0xFFFF] [(.r0, 0x00FF)] [] ⟨false, false, false, false⟩)
    [.r0, .r7] = some ([0xFF00, 0x0102], ⟨true, false, false, false⟩) := by decide

/-- T20. -/
theorem test_mvo_pc : wordAfter (at100 [0x0247, 0x0200] [] [] ⟨false, false, false, false⟩) 0x0200 = some 0x0102 := by decide

/-- T17. -/
theorem test_mvo_at_own_plain_pointer : wordAfter (at100 [0x0249] [(.r1, 0x0200)] [] ⟨false, false, false, false⟩) 0x0200 = some 0x0200 := by decide

/-- T18. -/
theorem test_pshr_pc : wordAfter (at100 [0x0277] [(.r6, 0x0300)] [] ⟨false, false, false, false⟩) 0x0300 = some 0x0101 := by decide

/-- T18. -/
theorem test_pshr_increments : after (at100 [0x0277] [(.r6, 0x0300)] [] ⟨false, false, false, false⟩)
    [.r6, .r7] = some ([0x0301, 0x0101], ⟨false, false, false, false⟩) := by decide

/-- T19. -/
theorem test_mvoi : wordAfter (at100 [0x0279, 0x0000] [(.r1, 0x5555)] [] ⟨false, false, false, false⟩) 0x0101 = some 0x5555 := by decide

/-- T19. -/
theorem test_mvoi_passes_word : after (at100 [0x0279, 0x0000] [(.r1, 0x5555)] [] ⟨false, false, false, false⟩)
    [.r7] = some ([0x0102], ⟨false, false, false, false⟩) := by decide

/-- T41. -/
theorem test_b_backward : after (at100 [0x0220, 0x0003] [] [] ⟨false, false, false, false⟩)
    [.r7] = some ([0x00FE], ⟨false, false, false, false⟩) := by decide

/-- T42. -/
theorem test_b_backward_zero : after (at100 [0x0220, 0x0000] [] [] ⟨false, false, false, false⟩)
    [.r7] = some ([0x0101], ⟨false, false, false, false⟩) := by decide

/-- BC by R202. -/
theorem test_bc : after (at100 [0x0201, 0x0005] [] [] ⟨false, false, true, false⟩)
    [.r7] = some ([0x0107], ⟨false, false, true, false⟩) := by decide

/-- BOV by R203. -/
theorem test_bov : after (at100 [0x0202, 0x0005] [] [] ⟨false, false, false, true⟩)
    [.r7] = some ([0x0107], ⟨false, false, false, true⟩) := by decide

/-- BPL by R204, not taken. -/
theorem test_bpl : after (at100 [0x0203, 0x0005] [] [] ⟨true, false, false, false⟩)
    [.r7] = some ([0x0102], ⟨true, false, false, false⟩) := by decide

/-- T46. -/
theorem test_bze : after (at100 [0x0204, 0x0005] [] [] ⟨false, true, false, false⟩)
    [.r7] = some ([0x0107], ⟨false, true, false, false⟩) := by decide

/-- T47. -/
theorem test_bze_not : after (at100 [0x0204, 0x0005] [] [] ⟨false, false, false, false⟩)
    [.r7] = some ([0x0102], ⟨false, false, false, false⟩) := by decide

/-- T49. -/
theorem test_blt : after (at100 [0x0205, 0x0005] [] [] ⟨true, false, false, false⟩)
    [.r7] = some ([0x0107], ⟨true, false, false, false⟩) := by decide

/-- T50. -/
theorem test_blt_not : after (at100 [0x0205, 0x0005] [] [] ⟨true, false, false, true⟩)
    [.r7] = some ([0x0102], ⟨true, false, false, true⟩) := by decide

/-- BLE by R207. -/
theorem test_ble : after (at100 [0x0206, 0x0005] [] [] ⟨false, true, false, false⟩)
    [.r7] = some ([0x0107], ⟨false, true, false, false⟩) := by decide

/-- T53. -/
theorem test_busc : after (at100 [0x0207, 0x0005] [] [] ⟨false, false, true, false⟩)
    [.r7] = some ([0x0107], ⟨false, false, true, false⟩) := by decide

/-- T48. -/
theorem test_nopp : after (at100 [0x0208, 0x0005] [] [] ⟨true, true, true, true⟩)
    [.r7] = some ([0x0102], ⟨true, true, true, true⟩) := by decide

/-- T58. -/
theorem test_bnc : after (at100 [0x0209, 0x1000] [] [] ⟨false, false, false, false⟩)
    [.r7] = some ([0x1102], ⟨false, false, false, false⟩) := by decide

/-- BNOV by R211, not taken. -/
theorem test_bnov : after (at100 [0x020A, 0x0005] [] [] ⟨false, false, false, true⟩)
    [.r7] = some ([0x0102], ⟨false, false, false, true⟩) := by decide

/-- BMI by R212. -/
theorem test_bmi : after (at100 [0x020B, 0x0005] [] [] ⟨true, false, false, false⟩)
    [.r7] = some ([0x0107], ⟨true, false, false, false⟩) := by decide

/-- BNZE by R213, backward 2. -/
theorem test_bnze : after (at100 [0x022C, 0x0002] [] [] ⟨false, false, false, false⟩)
    [.r7] = some ([0x00FF], ⟨false, false, false, false⟩) := by decide

/-- BGE by R214. -/
theorem test_bge : after (at100 [0x020D, 0x0005] [] [] ⟨true, false, false, true⟩)
    [.r7] = some ([0x0107], ⟨true, false, false, true⟩) := by decide

/-- T51. -/
theorem test_bgt : after (at100 [0x020E, 0x0005] [] [] ⟨false, false, false, false⟩)
    [.r7] = some ([0x0107], ⟨false, false, false, false⟩) := by decide

/-- T52. -/
theorem test_bgt_not : after (at100 [0x020E, 0x0005] [] [] ⟨false, true, false, false⟩)
    [.r7] = some ([0x0102], ⟨false, true, false, false⟩) := by decide

/-- T54. -/
theorem test_besc : after (at100 [0x020F, 0x0005] [] [] ⟨true, false, true, false⟩)
    [.r7] = some ([0x0107], ⟨true, false, true, false⟩) := by decide

/-- T55: condition 5 alone reads 1. -/
theorem test_bext_taken : after { at100 [0x0235, 0x0001] [] [] ⟨false, false, false, false⟩ with
    env := [{ Pins.quiet with conditions := some 32 }] } [.r7] = some ([0x0100], ⟨false, false, false, false⟩) := by decide

/-- T56: condition 5 alone reads 0. -/
theorem test_bext_not : after { at100 [0x0235, 0x0001] [] [] ⟨false, false, false, false⟩ with
    env := [{ Pins.quiet with conditions := some 65503 }] } [.r7] = some ([0x0102], ⟨false, false, false, false⟩) := by decide

/-- T60. -/
theorem test_movr_pc : after (at100 [0x00B8] [] [] ⟨false, false, false, false⟩)
    [.r0, .r7] = some ([0x0101, 0x0101], ⟨false, false, false, false⟩) := by decide

/-- T61. -/
theorem test_jr : after (at100 [0x00AF] [(.r5, 0x8000)] [] ⟨false, false, false, false⟩)
    [.r7] = some ([0x8000], ⟨true, false, false, false⟩) := by decide

/-- T62. -/
theorem test_addr_pc : after (at100 [0x00C7] [(.r0, 0x0010)] [] ⟨false, false, false, false⟩)
    [.r7] = some ([0x0111], ⟨false, false, false, false⟩) := by decide

/-- T63. -/
theorem test_addr_self : after (at100 [0x00C9] [(.r1, 0x4000)] [] ⟨false, false, false, false⟩)
    [.r1, .r7] = some ([0x8000, 0x0101], ⟨true, false, false, true⟩) := by decide

/-- T64. -/
theorem test_subr_self : after (at100 [0x0112] [(.r2, 0x1234)] [] ⟨false, false, false, false⟩)
    [.r2, .r7] = some ([0x0000, 0x0101], ⟨false, true, true, false⟩) := by decide

/-- T65. -/
theorem test_subr_borrow : after (at100 [0x0108] [(.r1, 0x0001)] [] ⟨false, false, false, false⟩)
    [.r0, .r1, .r7] = some ([0xFFFF, 0x0001, 0x0101], ⟨true, false, false, false⟩) := by decide

/-- T66. -/
theorem test_cmpr : after (at100 [0x0148] [(.r0, 0x8000), (.r1, 0x0001)] [] ⟨false, false, false, false⟩)
    [.r0, .r1, .r7] = some ([0x8000, 0x0001, 0x0101], ⟨false, false, true, true⟩) := by decide

/-- T68. -/
theorem test_andr : after (at100 [0x0188] [(.r0, 0xF0F0), (.r1, 0x0F0F)] [] ⟨false, false, true, true⟩)
    [.r0, .r1, .r7] = some ([0x0000, 0x0F0F, 0x0101], ⟨false, true, true, true⟩) := by decide

/-- XORR R2,R0 by R236. -/
theorem test_xorr : after (at100 [0x01D0] [(.r0, 0x0008), (.r2, 0x0003)] [] ⟨false, false, false, false⟩)
    [.r0, .r2, .r7] = some ([0x000B, 0x0003, 0x0101], ⟨false, false, false, false⟩) := by decide

/-- T69. -/
theorem test_clrr : after (at100 [0x01C0] [(.r0, 0xFFFF)] [] ⟨false, false, false, false⟩)
    [.r0, .r7] = some ([0x0000, 0x0101], ⟨false, true, false, false⟩) := by decide

/-- T70. -/
theorem test_tstr : after (at100 [0x009B] [(.r3, 0x8000)] [] ⟨false, false, false, false⟩)
    [.r3, .r7] = some ([0x8000, 0x0101], ⟨true, false, false, false⟩) := by decide

/-- T80: S is bit 7. -/
theorem test_swap : after (at100 [0x0040] [(.r0, 0x12F4)] [] ⟨false, false, false, false⟩)
    [.r0, .r7] = some ([0xF412, 0x0101], ⟨false, false, false, false⟩) := by decide

/-- T81. -/
theorem test_swap_two : after (at100 [0x0044] [(.r0, 0x12F4)] [] ⟨false, false, false, false⟩)
    [.r0, .r7] = some ([0xF4F4, 0x0101], ⟨true, false, false, false⟩) := by decide

/-- T82. -/
theorem test_sll : after (at100 [0x0049] [(.r1, 0xC001)] [] ⟨false, false, true, true⟩)
    [.r1, .r7] = some ([0x8002, 0x0101], ⟨true, false, true, true⟩) := by decide

/-- T83. -/
theorem test_sll_two : after (at100 [0x004D] [(.r1, 0xC001)] [] ⟨false, false, false, false⟩)
    [.r1, .r7] = some ([0x0004, 0x0101], ⟨false, false, false, false⟩) := by decide

/-- T84. -/
theorem test_rlc : after (at100 [0x0052] [(.r2, 0x8000)] [] ⟨false, false, true, false⟩)
    [.r2, .r7] = some ([0x0001, 0x0101], ⟨false, false, true, false⟩) := by decide

/-- T85. -/
theorem test_rlc_two : after (at100 [0x0056] [(.r2, 0x4001)] [] ⟨false, false, true, false⟩)
    [.r2, .r7] = some ([0x0006, 0x0101], ⟨false, false, false, true⟩) := by decide

/-- T87. -/
theorem test_sllc : after (at100 [0x005B] [(.r3, 0x8000)] [] ⟨false, false, false, false⟩)
    [.r3, .r7] = some ([0x0000, 0x0101], ⟨false, true, true, false⟩) := by decide

/-- T88. -/
theorem test_sllc_two : after (at100 [0x005F] [(.r3, 0x4000)] [] ⟨false, false, true, false⟩)
    [.r3, .r7] = some ([0x0000, 0x0101], ⟨false, true, false, true⟩) := by decide

/-- T89. -/
theorem test_slr : after (at100 [0x0060] [(.r0, 0x8101)] [] ⟨false, false, true, false⟩)
    [.r0, .r7] = some ([0x4080, 0x0101], ⟨true, false, true, false⟩) := by decide

/-- T90. -/
theorem test_slr_two : after (at100 [0x0064] [(.r0, 0x0003)] [] ⟨false, false, false, false⟩)
    [.r0, .r7] = some ([0x0000, 0x0101], ⟨false, true, false, false⟩) := by decide

/-- T91. -/
theorem test_sar : after (at100 [0x0069] [(.r1, 0x8002)] [] ⟨false, false, false, false⟩)
    [.r1, .r7] = some ([0xC001, 0x0101], ⟨false, false, false, false⟩) := by decide

/-- T92. -/
theorem test_sar_two : after (at100 [0x006D] [(.r1, 0x8004)] [] ⟨false, false, false, false⟩)
    [.r1, .r7] = some ([0xE001, 0x0101], ⟨false, false, false, false⟩) := by decide

/-- T93. -/
theorem test_rrc : after (at100 [0x0070] [(.r0, 0x0001)] [] ⟨false, false, false, false⟩)
    [.r0, .r7] = some ([0x0000, 0x0101], ⟨false, true, true, false⟩) := by decide

/-- T94. -/
theorem test_rrc_two : after (at100 [0x0074] [(.r0, 0x0002)] [] ⟨false, false, true, false⟩)
    [.r0, .r7] = some ([0x4000, 0x0101], ⟨false, false, false, true⟩) := by decide

/-- T96. -/
theorem test_sarc : after (at100 [0x007B] [(.r3, 0x8001)] [] ⟨false, false, false, false⟩)
    [.r3, .r7] = some ([0xC000, 0x0101], ⟨false, false, true, false⟩) := by decide

/-- T98. -/
theorem test_sarc_two : after (at100 [0x007F] [(.r3, 0x0102)] [] ⟨false, false, true, false⟩)
    [.r3, .r7] = some ([0x0040, 0x0101], ⟨false, false, false, true⟩) := by decide

/-- T110. -/
theorem test_incr_wraps : after (at100 [0x0008] [(.r0, 0xFFFF)] [] ⟨false, false, false, true⟩)
    [.r0, .r7] = some ([0x0000, 0x0101], ⟨false, true, false, true⟩) := by decide

/-- T112. -/
theorem test_incr_pc : after (at100 [0x000F] [] [] ⟨false, false, false, false⟩)
    [.r7] = some ([0x0102], ⟨false, false, false, false⟩) := by decide

/-- T113. -/
theorem test_decr_wraps : after (at100 [0x0010] [] [] ⟨false, false, true, false⟩)
    [.r0, .r7] = some ([0xFFFF, 0x0101], ⟨true, false, true, false⟩) := by decide

/-- T115. -/
theorem test_comr : after (at100 [0x0018] [(.r0, 0xFFFF)] [] ⟨false, false, false, false⟩)
    [.r0, .r7] = some ([0x0000, 0x0101], ⟨false, true, false, false⟩) := by decide

/-- T116. -/
theorem test_negr_zero : after (at100 [0x0020] [] [] ⟨false, false, false, false⟩)
    [.r0, .r7] = some ([0x0000, 0x0101], ⟨false, true, true, false⟩) := by decide

/-- T117. -/
theorem test_negr_min : after (at100 [0x0020] [(.r0, 0x8000)] [] ⟨false, false, false, false⟩)
    [.r0, .r7] = some ([0x8000, 0x0101], ⟨true, false, false, true⟩) := by decide

/-- T119. -/
theorem test_adcr_carry : after (at100 [0x0028] [(.r0, 0xFFFF)] [] ⟨false, false, true, false⟩)
    [.r0, .r7] = some ([0x0000, 0x0101], ⟨false, true, true, false⟩) := by decide

/-- T120. -/
theorem test_adcr_overflow : after (at100 [0x0028] [(.r0, 0x7FFF)] [] ⟨false, false, true, false⟩)
    [.r0, .r7] = some ([0x8000, 0x0101], ⟨true, false, false, true⟩) := by decide

/-- T122. -/
theorem test_gswd_s_ov : after (at100 [0x0031] [] [] ⟨true, false, false, true⟩)
    [.r1, .r7] = some ([0xA0A0, 0x0101], ⟨true, false, false, true⟩) := by decide

/-- T123. -/
theorem test_gswd_z_c : after (at100 [0x0033] [] [] ⟨false, true, true, false⟩)
    [.r3, .r7] = some ([0x5050, 0x0101], ⟨false, true, true, false⟩) := by decide

/-- T124. -/
theorem test_nop : after (at100 [0x0035] [] [] ⟨true, true, true, true⟩)
    [.r7] = some ([0x0101], ⟨true, true, true, true⟩) := by decide

/-- T126. -/
theorem test_rswd : after (at100 [0x003A] [(.r2, 0xFF5F)] [] ⟨false, false, false, false⟩)
    [.r2, .r7] = some ([0xFF5F, 0x0101], ⟨false, true, true, false⟩) := by decide

/-- T128. -/
theorem test_rswd_pc : after (at100 [0x003F] [] [] ⟨true, true, true, true⟩)
    [.r7] = some ([0x0101], ⟨false, false, false, false⟩) := by decide

/-- T145. -/
theorem test_clrc : after (at100 [0x0006] [] [] ⟨true, true, true, true⟩)
    [.r7] = some ([0x0101], ⟨true, true, false, true⟩) := by decide

/-- T146. -/
theorem test_setc : after (at100 [0x0007] [] [] ⟨false, false, false, false⟩)
    [.r7] = some ([0x0101], ⟨false, false, true, false⟩) := by decide

/-- T150. -/
theorem test_j : after (at100 [0x0004, 0x03FC, 0x03FF] [(.r4, 0x1111), (.r5, 0x1111), (.r6, 0x1111)] [] ⟨false, false, false, false⟩)
    [.r4, .r5, .r6, .r7] = some ([0x1111, 0x1111, 0x1111, 0xFFFF], ⟨false, false, false, false⟩) := by decide

/-- T151. -/
theorem test_jsr_r4 : after (at100 [0x0004, 0x0004, 0x0000] [] [] ⟨false, false, false, false⟩)
    [.r4, .r7] = some ([0x0103, 0x0400], ⟨false, false, false, false⟩) := by decide

/-- T152: nothing is pushed. -/
theorem test_jsr_r6 : after (at100 [0x0004, 0x0200, 0x0020] [(.r6, 0x0300)] [] ⟨false, false, false, false⟩)
    [.r6, .r7] = some ([0x0103, 0x0020], ⟨false, false, false, false⟩) := by decide

/-- What one step does to the flip-flops and the output pins: INTFF, D, the halt pending, whether requests are
examined next, the pulses. -/
def control (s : State) : Option (Bool × Bool × Bool × Bool × List Event) :=
  match step s with
  | .next t => some (t.intff, t.dbl, t.haltPending, t.boundaryOpen,
      t.events.filter fun e => e == .tciPulse || e == .pcitPulse)
  | _ => none

/-- T142. -/
theorem test_eis : control (at100 [0x0002] [] [] ⟨false, false, false, false⟩) = some (true, false, false, false, []) := by decide

/-- T143. -/
theorem test_dis : control { at100 [0x0003] [] [] ⟨false, false, false, false⟩ with intff := true } = some (false, false, false, false, []) := by decide

/-- T144. -/
theorem test_tci : control (at100 [0x0005] [] [] ⟨false, false, false, false⟩) = some (false, false, false, false, [.tciPulse]) := by decide

/-- T125. -/
theorem test_sin : control (at100 [0x0036] [] [] ⟨false, false, false, false⟩) = some (false, false, false, true, [.pcitPulse]) := by decide

/-- T147. -/
theorem test_sdbd : control (at100 [0x0001] [] [] ⟨false, false, false, false⟩) = some (false, true, false, false, []) := by decide

/-- T140, first step. -/
theorem test_hlt : control (at100 [0x0000] [] [] ⟨false, false, false, false⟩) = some (false, false, true, false, []) := by decide

/-- JE by R323. -/
theorem test_je : control (at100 [0x0004, 0x0311, 0x0234] [] [] ⟨false, false, false, false⟩) = some (true, false, false, true, []) := by decide

/-- T154. -/
theorem test_jd : control { at100 [0x0004, 0x0302, 0x0000] [] [] ⟨false, false, false, false⟩ with intff := true } = some (false, false, false, true, []) := by decide

/-- T153. -/
theorem test_jsre : control (at100 [0x0004, 0x0111, 0x0234] [] [] ⟨false, false, false, false⟩) = some (true, false, false, true, []) := by decide

/-- JSRD by R326. -/
theorem test_jsrd : control { at100 [0x0004, 0x0206, 0x0000] [] [] ⟨false, false, false, false⟩ with intff := true } = some (false, false, false, true, []) := by decide

/-- T140, second step: the instruction after HLT runs and the CPU stops. -/
theorem test_halt_stops :
    (match step { at100 [0x0008] [] [] ⟨false, false, false, false⟩ with haltPending := true } with
      | .next t => some (t.reg .r0, t.reg .r7, t.run, t.haltPending)
      | _ => none) = some (0x0001, 0x0101, .stopped, false) := by decide

/-- The refusal a step answers. -/
def refusal (s : State) : Option Refusal :=
  match step s with
  | .refused r => some r
  | _ => none

/-- T23. -/
theorem test_refuse_direct_after_sdbd :
    refusal { at100 [0x0280, 0x0200] [] [] ⟨false, false, false, false⟩ with dbl := true }
      = some .doubleByteModeNotSupported := by decide
/-- T24. -/
theorem test_refuse_stack_after_sdbd :
    refusal { at100 [0x02B0] [] [] ⟨false, false, false, false⟩ with dbl := true }
      = some .doubleByteModeNotSupported := by decide
/-- T25. -/
theorem test_refuse_output_after_sdbd :
    refusal { at100 [0x0248] [] [] ⟨false, false, false, false⟩ with dbl := true }
      = some .doubleByteNotForThisInstruction := by decide
/-- T29. -/
theorem test_refuse_sdbd_after_sdbd :
    refusal { at100 [0x0001] [] [] ⟨false, false, false, false⟩ with dbl := true }
      = some .doubleByteNotForThisInstruction := by decide
/-- T26. -/
theorem test_refuse_push_of_stack_pointer :
    refusal (at100 [0x0276] [] [] ⟨false, false, false, false⟩) = some .moveOutOfOwnPointer := by decide
/-- T155. -/
theorem test_refuse_jump_de11 :
    refusal (at100 [0x0004, 0x0303, 0x0000] [] [] ⟨false, false, false, false⟩)
      = some .jumpInterruptControl11 := by decide

/-- At an open boundary: R6 = 0x0300, R7 = 0x0123, and a sample of the pins. -/
def boundary (p : Pins) : State :=
  { at100 [] [(.r6, 0x0300), (.r7, 0x0123)] [] ⟨true, false, true, false⟩ with boundaryOpen := true, env := [p] }

/-- T170. -/
theorem test_interrupt_maskable :
    (match step { boundary { Pins.quiet with intrm := true, vector := 0x0040 } with intff := true } with
      | .next t => some (t.mem.readWord 0x0300, t.reg .r6, t.reg .r7, t.intff, t.status)
      | _ => none) = some (0x0123, 0x0301, 0x0040, true, ⟨true, false, true, false⟩) := by decide
/-- T171: the instruction at 0x0123 (a HLT word of 0) runs instead. -/
theorem test_interrupt_masked :
    after (boundary { Pins.quiet with intrm := true, vector := 0x0040 }) [.r6, .r7]
      = some ([0x0300, 0x0124], ⟨true, false, true, false⟩) := by decide
/-- T172. -/
theorem test_interrupt_not_maskable :
    after (boundary { Pins.quiet with intr := true, vector := 0x0040 }) [.r6, .r7]
      = some ([0x0301, 0x0040], ⟨true, false, true, false⟩) := by decide
/-- T176, first step. -/
theorem test_bus_request_first :
    (match step (boundary { Pins.quiet with intr := true, busrq := true, dma := [(0x0050, 0xABCD)] }) with
      | .next t => some (t.busReleased, t.reg .r7, t.mem.readWord 0x0050)
      | _ => none) = some (true, 0x0123, 0xABCD) := by decide
/-- T178, the stop and the resume. -/
theorem test_stop_and_resume :
    (match step (boundary { Pins.quiet with stpst := true }) with
      | .next t => match step { t with env := [{ Pins.quiet with stpst := true }] } with
        | .next u => some (t.run, u.run, u.reg .r7)
        | _ => none
      | _ => none) = some (.stopped, .running, 0x0123) := by decide
/-- The codes of R73 as BC1, BC2, BDIR, and what D0 to D15 are. -/
theorem test_bus_codes :
    [BusCode.nact, .bar, .iab, .dws, .adar, .dw, .dtb, .intak].map (fun c => (c.pins, c.dataLines)) =
      [(0b000, .highImpedance), (0b001, .output), (0b010, .input), (0b011, .output),
       (0b100, .highImpedance), (0b101, .output), (0b110, .input), (0b111, .output)] := by decide
/-- What one step shows on the bus, in order. -/
def busOf (s : State) : List Event :=
  match step s with
  | .next t => t.events.reverse
  | _ => []
/-- A direct-address read by R74 and R400, in 10 micro states: the address goes to the address register by ADAR,
the data by DTB alone. -/
theorem test_bus_direct_read :
    busOf (at100 [0x0280, 0x0200] [] [(0x0200, 0x1234)] ⟨false, false, false, false⟩) =
      [.bar 0x0100, .nact, .dtb 0x0280, .select 0, .nact, .bar 0x0101, .nact, .adar 0x0200, .nact, .dtb 0x1234, .nact] := by decide
/-- A write through a pointer by R74 and R400, in 9 micro states: PSHR R0. -/
theorem test_bus_push :
    busOf (at100 [0x0270] [(.r0, 0x5678), (.r6, 0x0300)] [] ⟨false, false, false, false⟩) =
      [.bar 0x0100, .nact, .dtb 0x0270, .select 0, .nact, .bar 0x0300, .nact, .dw 0x5678, .dws 0x5678, .nact] := by decide
/-- Bits 3..0 of the instruction register on EBCA by R49, two micro states of NACT after the fetch by R241:
ADDR R0,R1. -/
theorem test_bus_register :
    busOf (at100 [0x00C1] [] [] ⟨false, false, false, false⟩) =
      [.bar 0x0100, .nact, .dtb 0x00C1, .select 1, .nact, .nact, .nact] := by decide
/-- The interrupt sequence by R74: INTAK, the save of R7, IAB. -/
theorem test_bus_interrupt :
    busOf (boundary { Pins.quiet with intr := true, vector := 0x0040 }) =
      [.intak 0x0300, .dw 0x0123, .dws 0x0123, .iab 0x0040] := by decide
/-- R390, R391: while MSYNC* is low nothing executes, the bus has NACT, and BUSAK* is inactive, in a grant too. -/
theorem test_msync_low :
    (match step { boundary { Pins.quiet with msync := true, busrq := true } with busReleased := true } with
      | .next t => some (t.reg .r7, t.syncLow, t.busReleased, t.events)
      | _ => none) = some (0x0123, true, false, [.nact]) := by decide
/-- R390: and HALT is inactive. -/
theorem test_msync_low_stopped :
    (match step { boundary { Pins.quiet with msync := true } with boundaryOpen := false, run := .stopped } with
      | .next t => some (t.run, t.intff, t.events)
      | _ => none) = some (.running, false, [.nact]) := by decide
/-- T190, when MSYNC* goes high. -/
theorem test_initialization :
    (match step { boundary Pins.quiet with
        syncLow := true, intff := true, plat := { Platform.default with resetVector := 0x1000 } } with
      | .next t => some ((t.reg .r7, t.intff, t.dbl, t.run), t.syncLow, t.events)
      | _ => none) = some ((0x1000, false, false, .running), false, [.iab 0x1000]) := by decide
/-- Memory of 10 bits keeps the low 10 bits of a word (spec/20_memory.md). -/
theorem test_narrow_memory :
    wordAfter { at100 [0x0240, 0x0200] [(.r0, 0xFFFF)] [] ⟨false, false, false, false⟩ with
      plat := { Platform.default with regions := [⟨0x0200, 1, .ram, 10⟩] } } 0x0200 = some 0x03FF := by decide
/-- ROM keeps its word. -/
theorem test_rom_write :
    wordAfter { at100 [0x0240, 0x0200] [(.r0, 0xFFFF)] [(0x0200, 0x0007)] ⟨false, false, false, false⟩ with
      plat := { Platform.default with regions := [⟨0x0200, 1, .rom, 16⟩] } } 0x0200 = some 0x0007 := by decide
/-- Writing back what an unlisted cell reads as removes the cells. -/
theorem test_memory_canonical :
    (Memory.writeWord 0x0010 0 (Memory.writeWord 0x0010 0x1234 [])) = [] := by decide
/-- The host's two questions, on one word. -/
theorem test_table_word : decodeTableWord 16 0x0008 = some (.incr .r0) := by decide
theorem test_with_fetch_word :
    after (State.reset.withFetchWord 48 0x023401100004) [.r5, .r7]
      = some ([0x0003, 0x1234], ⟨false, false, false, false⟩) := by decide
/-! Witnesses: for each obligation with hypotheses, a state and operands that meet them together, clause by
clause, at the ends of the ranges. -/

/-- The reset state, at which most instructions run: no prefix is pending. -/
def z : State := State.reset

/-- An open boundary with the pins quiet. -/
def open0 : State := boundary Pins.quiet

theorem open0_ok : open0.Ok := by constructor <;> decide

/-- A NOP at the program counter. -/
def atNop : State := at100 [0x0034] [] [] ⟨false, false, false, false⟩

theorem atNop_ok : atNop.Ok := by constructor <;> decide
theorem atNop_quiet : Quiet atNop := by constructor <;> decide

theorem witness_StepKeepsInvariant : ∃ t, atNop.Ok ∧ step atNop = .next t := ⟨_, atNop_ok, rfl⟩
theorem witness_StepKeepsInvariant_open : ∃ t, open0.Ok ∧ step open0 = .next t := ⟨_, open0_ok, rfl⟩
theorem witness_InitializationSequence :
    (boundary { Pins.quiet with msync := true }).env = { Pins.quiet with msync := true } :: [] ∧
      ({ Pins.quiet with msync := true } : Pins).msync = true := ⟨rfl, rfl⟩
/-- MSYNC* goes high by a sample, and because no sample is left. -/
theorem witness_InitializationSequence_high :
    (∃ s : State, s.syncLow = true ∧ (s.env.headD .quiet).msync = false ∧ s.env = [Pins.quiet]) ∧
      ∃ s : State, s.syncLow = true ∧ (s.env.headD .quiet).msync = false ∧ s.env = [] :=
  ⟨⟨{ open0 with syncLow := true }, rfl, rfl, rfl⟩, { z with syncLow := true }, rfl, rfl, rfl⟩
theorem witness_EncodeDecodeRoundTrip : (Instr.jsr .r6 0xFFFF).WellFormed ∧ (Instr.mviAt .r1 .r7).WellFormed :=
  ⟨rfl, rfl⟩
/-- Both ends of the operation field and the mode of the third clause. -/
theorem witness_UpperBitsIgnored :
    (0b1010 ≤ ((0x02B8 : Word).toNat / 64) % 16 ∧ ((0x02B8 : Word).toNat / 8) % 8 = 7) ∧
      (0b1010 ≤ ((0x03FF : Word).toNat / 64) % 16 ∧ ((0x03FF : Word).toNat / 8) % 8 = 7) := by decide
theorem witness_InstructionLengthFunction : (Instr.mvoi .r0).WellFormed ∧ (Instr.xorAt .r6 .r7).WellFormed :=
  ⟨rfl, rfl⟩
/-- A word that runs and a word that is refused. -/
theorem witness_StepRunsDecodedInstruction : Quiet atNop ∧ PlainMemory atNop ∧
    ∃ t, exec (decode false 0x0034 0 0) { atNop with regs := atNop.regs.set .r7 0x0101, oracle := 1, events := [.nact, .select 4, .dtb 0x0034, .nact, .bar 0x0100] } = .next t := ⟨atNop_quiet, rfl, _, rfl⟩
theorem witness_StepRunsDecodedInstruction_refused :
    exec (decode false 0x0276 0 0) atNop = .refused .moveOutOfOwnPointer := rfl
theorem witness_InstructionEnds : (∃ t, runInstruction atNop = .next t) ∧ atNop.haltPending = false :=
  ⟨⟨_, rfl⟩, rfl⟩
theorem witness_InstructionEnds_halt :
    (∃ t, runInstruction { atNop with haltPending := true } = .next t) ∧
      ({ atNop with haltPending := true } : State).haltPending = true := ⟨⟨_, rfl⟩, rfl⟩
/-- A next state and each of the four refusals. -/
theorem witness_RefusedExactlyWhereUnsupported :
    (Instr.nop false).WellFormed ∧ (∃ t, exec (.nop false) z = .next t) ∧
    exec (.mvi 0 .r0) { z with dbl := true } = .refused .doubleByteModeNotSupported ∧
    exec .sdbd { z with dbl := true } = .refused .doubleByteNotForThisInstruction ∧
    exec (.mvoAt .r4 .r4) z = .refused .moveOutOfOwnPointer ∧
    exec (.undefJumpDe11 0 0) z = .refused .jumpInterruptControl11 := ⟨rfl, ⟨_, rfl⟩, rfl, rfl, rfl, rfl⟩
theorem witness_StepGoesOnUnlessUnsupported : atNop.CanStep ∧
    ¬(at100 [0x0276] [] [] ⟨false, false, false, false⟩).CanStep :=
  ⟨⟨_, rfl⟩, fun ⟨_, h⟩ => nomatch h⟩
theorem witness_CarryInstructions : z.dbl = false := rfl
theorem witness_InterruptEnableInstructions : z.dbl = false := rfl
theorem witness_SdbdSetsDoubleByteFlag : z.dbl = false := rfl
theorem witness_HltMarksOrStops : z.dbl = false ∧ z.plat.hltAfterNext = true ∧
    ({ z with plat := { z.plat with hltAfterNext := false } } : State).plat.hltAfterNext = false := ⟨rfl, rfl, rfl⟩
theorem witness_NopSinTciChangeNoCpuState : z.dbl = false := rfl
theorem witness_IncrementDecrementComplement : z.dbl = false := rfl
theorem witness_NegateAndAddCarry : z.dbl = false := rfl
theorem witness_GswdBuildsStatusWord : z.dbl = false ∧ (Instr.gswd .r0).WellFormed ∧ (Instr.gswd .r3).WellFormed :=
  ⟨rfl, rfl, rfl⟩
theorem witness_RswdRestoresStatus : z.dbl = false := rfl
theorem witness_SavedStatusIsRestored : ∃ t, exec (.gswd .r3) open0 = .next t := ⟨_, rfl⟩
theorem witness_MoveTestAndJumpRegister : z.dbl = false := rfl
theorem witness_LogicRegisters : z.dbl = false := rfl
theorem witness_AddRegisters : z.dbl = false := rfl
theorem witness_SubtractAndCompareRegisters : z.dbl = false := rfl
theorem witness_CompareThenBranch : ∃ t, exec (.cmpr .r6 .r0) open0 = .next t := ⟨_, rfl⟩
theorem witness_LeftShifts : z.dbl = false := rfl
theorem witness_RightShiftsAndSwap : z.dbl = false := rfl
theorem witness_Jumps : z.dbl = false := rfl
theorem witness_JumpsSaveReturn : (Instr.jsr .r4 0).WellFormed ∧ (Instr.jsr .r6 0).WellFormed ∧ z.dbl = false :=
  ⟨rfl, rfl, rfl⟩
theorem witness_UndefinedJumpRefused : z.dbl = false := rfl
/-- The first and the last condition. -/
theorem witness_InternalBranches : (0, .b, fun _ => true) ∈ internalBranches ∧
    (15, .besc, fun f => (f.c != f.s) == false) ∈ internalBranches ∧ z.dbl = false :=
  ⟨by simp [internalBranches], by simp [internalBranches], rfl⟩
theorem witness_SecondNameBranches : (.blgt, fun f => f.c == true) ∈ secondNameBranches ∧ z.dbl = false :=
  ⟨by simp [secondNameBranches], rfl⟩
theorem witness_ExternalBranch : z.dbl = false ∧ z.pins.conditions = none ∧
    ({ z with pins := { z.pins with conditions := some 1 } } : State).pins.conditions = some 1 := ⟨rfl, rfl, rfl⟩
/-- Every operand form, and those through a pointer and the immediate with and without SDBD. -/
theorem witness_MoveInLoadsOperand :
    (∃ x, operandOf z (.direct 0xFFFF) = some x) ∧ (∃ x, operandOf z (.immediate 7) = some x) ∧
    (∃ x, operandOf z (.pointer .r1) = some x) ∧ (∃ x, operandOf z (.pointer .r5) = some x) ∧
    (∃ x, operandOf z (.pointer .r6) = some x) ∧ (∃ x, operandOf { z with dbl := true } (.immediate 7) = some x) ∧
    (∃ x, operandOf { z with dbl := true } (.pointer .r3) = some x) ∧
    (∃ x, operandOf { z with dbl := true } (.pointer .r4) = some x) :=
  ⟨⟨_, rfl⟩, ⟨_, rfl⟩, ⟨_, rfl⟩, ⟨_, rfl⟩, ⟨_, rfl⟩, ⟨_, rfl⟩, ⟨_, rfl⟩, ⟨_, rfl⟩⟩
theorem witness_AddOperand : ∃ x, operandOf z (.direct 0) = some x := ⟨_, rfl⟩
theorem witness_SubtractOperand : ∃ x, operandOf z (.pointer .r6) = some x := ⟨_, rfl⟩
theorem witness_CompareOperand : ∃ x, operandOf z (.immediate 0xFFFF) = some x := ⟨_, rfl⟩
theorem witness_LogicOperand : ∃ x, operandOf { z with dbl := true } (.pointer .r5) = some x := ⟨_, rfl⟩
theorem witness_PulrPullsFromStack : z.dbl = false ∧ Reg.r0 ≠ .r6 := ⟨rfl, by decide⟩
theorem witness_MoveOutStores : z.dbl = false ∧ (Instr.mvoAt .r1 .r1).WellFormed ∧
    ¬(Reg.r1 = Reg.r1 ∧ (Reg.r1 = .r4 ∨ Reg.r1 = .r5 ∨ Reg.r1 = .r6)) ∧ (Instr.mvoAt .r5 .r6).WellFormed ∧
    ¬(Reg.r5 = Reg.r6 ∧ (Reg.r6 = .r4 ∨ Reg.r6 = .r5 ∨ Reg.r6 = .r6)) := by decide
/-- Read/write memory and a location that is not. -/
theorem witness_StoredAt : z.plat.kindOf 0xFFFF = .ram ∧ z.mem.wf = true ∧
    ({ z.plat with regions := [⟨0, 1, .rom, 16⟩] } : Platform).kindOf 0 ≠ .ram := by decide
theorem witness_MvoiStoresIntoItself : z.dbl = false ∧ Reg.r6 ≠ .r7 := ⟨rfl, by decide⟩
theorem witness_PshrPushesOnStack : z.dbl = false ∧ Reg.r7 ≠ .r6 := ⟨rfl, by decide⟩
theorem witness_PushThenPull : z.mem.wf = true ∧ PlainMemory z ∧ Reg.r7 ≠ .r6 ∧ Reg.r0 ≠ .r6 ∧
    ∃ t, exec (.pshr .r7) z = .next t := ⟨rfl, rfl, by decide, by decide, _, rfl⟩
/-- A platform whose last location is of a kind and width, all others plain memory. -/
def mapped (k : Kind) (width : Nat) : Platform := { Platform.default with regions := [⟨0xFFFF, 1, k, width⟩] }
/-- The kinds of location, and a narrow memory, that the clauses tell apart. -/
theorem witness_StoreThenLoad_kinds : z.dbl = false ∧
    (mapped .ram 10).kindOf 0xFFFF = .ram ∧ (mapped .ram 10).widthOf 0xFFFF = 10 ∧
    (mapped .rom 10).kindOf 0xFFFF = .rom ∧ (mapped .device 16).kindOf 0xFFFF = .device ∧
    (mapped .nothing 16).kindOf 0xFFFF = .nothing ∧ (mapped .rom 10).kindOf 0xFFFE = .ram := by decide
theorem witness_StoreThenLoad_rom : z.mem.wf = true ∧
    ∃ t, exec (.mvo .r7 0xFFFF) { z with plat := mapped .rom 10 } = .next t := ⟨rfl, _, rfl⟩
theorem witness_StoreThenLoad : z.mem.wf = true ∧ PlainMemory z ∧ ∃ t, exec (.mvo .r7 0xFFFF) z = .next t :=
  ⟨rfl, rfl, _, rfl⟩
/-- A request that is taken, and one that is not. -/
theorem witness_InterruptAcceptance : open0.env = Pins.quiet :: [] ∧ open0.run = .running ∧
    open0.boundaryOpen = true ∧ open0.busReleased = false ∧ open0.syncLow = false ∧ open0.haltPending = false ∧ open0.stopPending = false ∧
    Pins.quiet.msync = false ∧ Pins.quiet.stpst = false ∧ Pins.quiet.busrq = false ∧
    ¬(Pins.quiet.intr = true ∨ (Pins.quiet.intrm = true ∧ open0.intff = true)) := by decide
theorem witness_InterruptAcceptance_taken :
    let p := { Pins.quiet with intr := true }
    (boundary p).env = p :: [] ∧ (boundary p).run = .running ∧ (boundary p).boundaryOpen = true ∧
    (boundary p).busReleased = false ∧ (boundary p).syncLow = false ∧ (boundary p).haltPending = false ∧ (boundary p).stopPending = false ∧
    p.msync = false ∧ p.stpst = false ∧ p.busrq = false ∧ p.intr = true := by decide
theorem witness_InterruptSequence : open0.mem.wf = true ∧ open0.plat.kindOf (open0.reg .r6) = .ram ∧
    16 ≤ open0.plat.widthOf (open0.reg .r6) := by decide
theorem witness_InterruptThenReturn :
    let r := open0.takeInterrupt
    open0.mem.wf = true ∧ PlainMemory open0 ∧ r.reg .r6 = open0.takeInterrupt.reg .r6 ∧
      r.mem.readWord (open0.reg .r6) = open0.takeInterrupt.mem.readWord (open0.reg .r6) ∧
      r.plat = open0.plat ∧ r.dbl = false := ⟨by decide, rfl, rfl, rfl, rfl, rfl⟩
theorem witness_ClosedBoundaryGoesOn :
    let p := { Pins.quiet with intr := true, busrq := true, stpst := true }
    let s := { boundary p with boundaryOpen := false }
    s.env = p :: [] ∧ s.run = .running ∧ s.boundaryOpen = false ∧ s.busReleased = false ∧ s.syncLow = false ∧ p.msync = false := by
  decide
theorem witness_StopAndStoppedMode_edge :
    let p := { Pins.quiet with stpst := true, intr := true, busrq := true }
    (boundary p).env = p :: [] ∧ (boundary p).run = .running ∧ (boundary p).boundaryOpen = true ∧
    (boundary p).busReleased = false ∧ (boundary p).syncLow = false ∧ (boundary p).haltPending = false ∧ p.msync = false ∧ p.stpst = true := by
  decide
/-- The stopped CPU with a sample without an edge, with an edge, and without a sample. -/
theorem witness_StopAndStoppedMode_stopped :
    let s := { open0.stop with env := [Pins.quiet] }
    let e := { open0.stop with env := [{ Pins.quiet with stpst := true }] }
    s.env = Pins.quiet :: [] ∧ s.run = .stopped ∧ s.syncLow = false ∧ Pins.quiet.msync = false ∧ Pins.quiet.stpst = false ∧
    e.env = { Pins.quiet with stpst := true } :: [] ∧ e.run = .stopped ∧ e.syncLow = false ∧
    ({ s with env := [] } : State).env = [] := by decide
theorem witness_BusGrantBeforeInterrupt :
    let p := { Pins.quiet with busrq := true, intr := true, dma := [(7, 2), (0xFFFF, 1), (7, 3)] }
    (boundary p).env = p :: [] ∧ (boundary p).run = .running ∧ (boundary p).boundaryOpen = true ∧
    (boundary p).syncLow = false ∧ p.msync = false ∧ p.busrq = true ∧ p.stpst = false ∧ (boundary p).haltPending = false ∧ (boundary p).stopPending = false ∧
    (boundary p).plat.kindOf 0xFFFF = .ram := by decide
/-- A stop edge in a sample of a grant that goes on. -/
theorem witness_BusGrantBeforeInterrupt_edge :
    let p := { Pins.quiet with busrq := true, stpst := true }
    let s := { boundary p with busReleased := true }
    s.env = p :: [] ∧ s.run = .running ∧ s.boundaryOpen = true ∧ s.syncLow = false ∧ p.msync = false ∧
    p.busrq = true ∧ s.busReleased = true ∧ p.stpst = true := by decide
theorem witness_BusGrantBeforeInterrupt_dma :
    ({ Pins.quiet with dma := [(7, 2), (0xFFFF, 1), (7, 3)] } : Pins).dma = [(7, 2)] ++ (0xFFFF, 1) :: [(7, 3)] ∧
    (∀ w ∈ [((7 : Word), (3 : Word))], w.1 ≠ 0xFFFF) ∧ (boundary Pins.quiet).mem.wf = true :=
  ⟨rfl, fun w h => by simp only [List.mem_singleton] at h; subst h; decide, by decide⟩
/-- A location that is no read/write memory, at each kind. -/
theorem witness_BusGrantBeforeInterrupt_kinds :
    ∀ k ∈ [Kind.rom, .device, .nothing], (mapped k 16).kindOf 0xFFFF ≠ .ram := by decide
theorem witness_BusGrantBeforeInterrupt_return :
    let s := { open0 with busReleased := true }
    s.env = Pins.quiet :: [] ∧ s.run = .running ∧ s.boundaryOpen = true ∧ s.busReleased = true ∧
    Pins.quiet.msync = false ∧ Pins.quiet.busrq = false := by decide
theorem witness_StatusBitsWrittenOnlyByTable : (∃ t, exec (.rlc .r0 .one) z = .next t) ∧
    (statusWrites (.rlc .r0 .one)).2.2.2 = false ∧ (statusWrites .setc).1 = false := ⟨⟨_, rfl⟩, rfl, rfl⟩
theorem witness_StatusBitsWrittenOnlyByTable_attend :
    ∃ t, (boundary { Pins.quiet with intr := true }).attend = .acted t ∧
      (boundary { Pins.quiet with intr := true }).syncLow = false ∧
      ((boundary { Pins.quiet with intr := true }).env.headD .quiet).msync = false := ⟨_, rfl, rfl, rfl⟩
theorem witness_InterruptEnableWrittenOnlyBy : ∃ t, exec (.jsrd .r4 0) z = .next t := ⟨_, rfl⟩
theorem witness_DoubleByteFlagConsumed : (∃ t, exec .sdbd z = .next t) ∧
    ∃ t, exec (.mviAt .r4 .r0) { z with dbl := true } = .next t := ⟨⟨_, rfl⟩, _, rfl⟩
theorem witness_RegistersWrittenOnlyByName :
    (Instr.addAt .r4 .r0).WellFormed ∧ ∃ t, exec (.addAt .r4 .r0) z = .next t := ⟨rfl, _, rfl⟩
theorem witness_MemoryWrittenOnlyByMoveOut : (∃ t, exec (.mvo .r0 0xFFFF) z = .next t) ∧
    storeAddress z (.mvo .r0 0xFFFF) = some 0xFFFF ∧ storeAddress z .setc = none := ⟨⟨_, rfl⟩, rfl, rfl⟩
theorem witness_BusAccessesOfEachInstruction :
    (Instr.xorAt .r5 .r0).WellFormed ∧ ∃ t, exec (.xorAt .r5 .r0) { z with dbl := true } = .next t := ⟨rfl, _, rfl⟩
theorem witness_PlatformNeverChanges : (∃ t, step atNop = .next t) ∧ ∃ t, exec .eis z = .next t :=
  ⟨⟨_, rfl⟩, _, rfl⟩

end Sys2Proof.Tests
end

section
/-! PROOFS. The encoding (spec/30_encoding.md): which bits of the words the decoder looks at (R110), and the
number of words of an instruction (R121). -/

namespace Sys2Proof

/-! The bits that are looked at -/

/-- The words have the same bits `k - 1` to 0. -/
def AgreeBelow {n : Nat} (k : Nat) (w w' : BitVec n) : Prop := ∀ j < k, w.getLsbD j = w'.getLsbD j

/-- Two words that end in the same `k` bits agree in them, whatever stands above. -/
theorem agreeBelow_append {n k : Nat} (u v : BitVec n) (low : BitVec k) : AgreeBelow k (u ++ low) (v ++ low) := by
  intro j hj
  rw [BitVec.getLsbD_append, BitVec.getLsbD_append, if_pos hj, if_pos hj]

/-- A field inside the bits in which two words agree is the same in both. -/
theorem AgreeBelow.bits_eq {k : Nat} {w w' : Word} (h : AgreeBelow k w w') {lo len : Nat} (hk : lo + len ≤ k) :
    bits w lo len = bits w' lo len := by
  apply BitVec.eq_of_getLsbD_eq
  intro j hj
  simp only [bits, BitVec.getLsbD_extractLsb', h (lo + j) (by omega)]

/-- Each decoder of a first word looks at its bits 9..0 only. -/
theorem decodeStatusRead_congr {w w' : Word} (h : AgreeBelow 10 w w') :
    decodeStatusRead w = decodeStatusRead w' := by
  simp (disch := omega) only [decodeStatusRead, h.bits_eq, h 0, h 1, h 2]

theorem decodeSingle_congr {w w' : Word} (h : AgreeBelow 10 w w') (w2 w3 : Word) :
    decodeSingle w w2 w3 = decodeSingle w' w2 w3 := by
  simp (disch := omega) only [decodeSingle, h.bits_eq, decodeStatusRead_congr h]

theorem decodeShift_congr {w w' : Word} (h : AgreeBelow 10 w w') : decodeShift w = decodeShift w' := by
  simp (disch := omega) only [decodeShift, h.bits_eq, h 2]

theorem decodeBranch_congr {w w' : Word} (h : AgreeBelow 10 w w') (w2 : Word) :
    decodeBranch w w2 = decodeBranch w' w2 := by
  simp (disch := omega) only [decodeBranch, h.bits_eq, h 4, h 5]

theorem decodeMoveOut_congr {w w' : Word} (h : AgreeBelow 10 w w') (w2 : Word) :
    decodeMoveOut w w2 = decodeMoveOut w' w2 := by
  simp (disch := omega) only [decodeMoveOut, h.bits_eq]

theorem decodeInput_congr {w w' : Word} (h : AgreeBelow 10 w w') (direct imm : Word → Reg → Instr)
    (at' : Reg → Reg → Instr) (dbl : Bool) (w2 w3 : Word) :
    decodeInput direct imm at' dbl w w2 w3 = decodeInput direct imm at' dbl w' w2 w3 := by
  simp (disch := omega) only [decodeInput, h.bits_eq]

/-- Bits 15..10 of a first word do not select the instruction (R110). -/
theorem decode_congr {w w' : Word} (h : AgreeBelow 10 w w') (dbl : Bool) (w2 w3 : Word) :
    decode dbl w w2 w3 = decode dbl w' w2 w3 := by
  simp (disch := omega) only [decode, h.bits_eq, decodeSingle_congr h, decodeShift_congr h,
    decodeBranch_congr h, decodeMoveOut_congr h, decodeInput_congr h]

theorem instructionLength_congr {w w' : Word} (h : AgreeBelow 10 w w') (dbl : Bool) :
    instructionLength dbl w = instructionLength dbl w' := by
  simp (disch := omega) only [instructionLength_eq, h.bits_eq]

theorem fetchLength_congr {w w' : Word} (h : AgreeBelow 10 w w') (dbl : Bool) :
    fetchLength dbl w = fetchLength dbl w' := by
  simp (disch := omega) only [fetchLength_eq, h.bits_eq, instructionLength_congr h]

/-- The word 0x0004 is the jump word (R119, R120). -/
theorem decode_jumpWord (dbl : Bool) (w2 w3 : Word) : decode dbl 0x0004 w2 w3 = decodeJump w2 w3 := rfl

/-- A jump looks at bits 9..0 of its second and third words only (R120). -/
theorem decodeJump_congr {w2 w2' w3 w3' : Word} (h2 : AgreeBelow 10 w2 w2') (h3 : AgreeBelow 10 w3 w3') :
    decodeJump w2 w3 = decodeJump w2' w3' := by
  simp (disch := omega) only [decodeJump, jumpAddress, h2.bits_eq, h3.bits_eq]

/-- The value of two data words is that of their low bytes (R122). -/
theorem doubleByte_congr {w2 w2' w3 w3' : Word} (h2 : AgreeBelow 8 w2 w2') (h3 : AgreeBelow 8 w3 w3') :
    doubleByte w2 w3 = doubleByte w2' w3' := by
  simp (disch := omega) only [doubleByte, h2.bits_eq, h3.bits_eq]

/-- An input operation in the immediate mode. -/
theorem decodeInput_immediate {w1 : Word} (hmode : (bits w1 3 3).toNat = 7) (direct imm : Word → Reg → Instr)
    (at' : Reg → Reg → Instr) (dbl : Bool) (w2 w3 : Word) :
    decodeInput direct imm at' dbl w1 w2 w3 = imm (immediate dbl w2 w3) (Reg.ofBits (bits w1 0 3)) := by
  simp only [decodeInput, hmode]

/-- After SDBD an immediate input looks at the low bytes of its data words only (R122). -/
theorem decode_doubleImmediate_congr {w1 w2 w2' w3 w3' : Word} (hop : 10 ≤ (bits w1 6 4).toNat)
    (hmode : (bits w1 3 3).toNat = 7) (h2 : AgreeBelow 8 w2 w2') (h3 : AgreeBelow 8 w3 w3') :
    decode true w1 w2 w3 = decode true w1 w2' w3' := by
  have himm : immediate true w2 w3 = immediate true w2' w3' := by
    simp only [immediate, if_true, doubleByte_congr h2 h3]
  simp only [decode, decodeInput_immediate hmode, himm]
  generalize (bits w1 6 4).toNat = op at hop
  split
  -- Operations 0 to 9 are no input.
  iterate 10 omega
  all_goals rfl

/-- Settles O6: each field the decoder reads lies in the bits that two words agree in. -/
theorem upperBitsIgnored : Obligations.UpperBitsIgnored := by
  unfold Obligations.UpperBitsIgnored
  refine ⟨fun dbl upper iw w2 w3 => ?_, fun dbl u2 u3 w2 w3 => ?_, fun w1 u2 u3 lo hi hop hmode => ?_⟩
  · have h := agreeBelow_append upper 0 iw
    exact ⟨decode_congr h dbl w2 w3, instructionLength_congr h dbl, fetchLength_congr h dbl⟩
  · rw [decode_jumpWord, decode_jumpWord]
    exact decodeJump_congr (agreeBelow_append u2 0 w2) (agreeBelow_append u3 0 w3)
  · exact decode_doubleImmediate_congr (by rwa [toNat_bits]) (by rwa [toNat_bits])
      (agreeBelow_append u2 0 lo) (agreeBelow_append u3 0 hi)

/-! The number of words -/

/-- R121 as arithmetic on the first word. -/
theorem instructionLength_eq_arith (dbl : Bool) (w : Word) : instructionLength dbl w =
    (let iw := w.toNat % 1024
     let mode := (iw / 8) % 8
     if iw = 4 then 3
     else if iw / 64 = 8 then 2
     else if 512 ≤ iw ∧ mode = 0 then 2
     else if 512 ≤ iw ∧ mode = 7 then 2 + dbl.toNat
     else 1) := by
  simp only [instructionLength_eq, toNat_bits]
  repeat' split
  all_goals omega

/-- The three fields of a first word (R112). -/
@[simp] theorem bits_firstWord_operation (op : BitVec 4) (f1 f2 : BitVec 3) :
    bits (firstWord op f1 f2) 6 4 = op := by
  simp only [bits, firstWord]
  rw [BitVec.extractLsb'_append_eq_of_le (by decide), BitVec.extractLsb'_append_eq_of_le (by decide),
    BitVec.extractLsb'_append_eq_of_add_le (by decide), BitVec.extractLsb'_eq_self]

@[simp] theorem bits_firstWord_f1 (op : BitVec 4) (f1 f2 : BitVec 3) : bits (firstWord op f1 f2) 3 3 = f1 := by
  simp only [bits, firstWord]
  rw [BitVec.extractLsb'_append_eq_of_le (by decide), BitVec.extractLsb'_append_eq_of_add_le (by decide),
    BitVec.extractLsb'_eq_self]

@[simp] theorem bits_firstWord_f2 (op : BitVec 4) (f1 f2 : BitVec 3) : bits (firstWord op f1 f2) 0 3 = f2 := by
  simp only [bits, firstWord]
  rw [BitVec.extractLsb'_append_eq_of_add_le (by decide), BitVec.extractLsb'_eq_self]

/-- The operation field of a branch word (R115). -/
theorem bits_branchWord_operation (s x : BitVec 1) (condition : BitVec 4) :
    bits (0#6 ++ 0b1000#4 ++ s ++ x ++ condition) 6 4 = 0b1000#4 := by
  simp only [bits]
  rw [BitVec.extractLsb'_append_eq_of_le (by decide), BitVec.extractLsb'_append_eq_of_le (by decide),
    BitVec.extractLsb'_append_eq_of_le (by decide), BitVec.extractLsb'_append_eq_of_add_le (by decide),
    BitVec.extractLsb'_eq_self]

/-- The mode field that names a pointer is neither the direct nor the immediate one (R114). -/
theorem num_toNat_of_isPointer {m : Reg} (h : m.isPointer = true) : m.num.toNat ≠ 0 ∧ m.num.toNat ≠ 7 := by
  cases m <;> revert h <;> decide

/-- The list has as many words as the length of the instruction its first word starts. -/
def HasLength (dbl : Bool) (ws : List Word) : Prop := ws.length = instructionLength dbl (ws.headD 0)

/-- The formats of one word with Operation 0000, but for the jump (R118, R119). -/
theorem hasLength_single (dbl : Bool) {f1 f2 : BitVec 3} (h : ¬(f1.toNat = 0 ∧ f2.toNat = 4)) :
    HasLength dbl [firstWord 0b0000 f1 f2] := by
  simp [HasLength, instructionLength_eq, h]

theorem hasLength_encodeJump (dbl : Bool) (bb : BitVec 2) (address : Word) (de : BitVec 2) :
    HasLength dbl (encodeJump bb address de) := by
  simp [HasLength, encodeJump, instructionLength_eq]

/-- The formats of one word with an Operation of 0001 to 0111: the shifts and register to register (R116, R117). -/
theorem hasLength_internal (dbl : Bool) {op : BitVec 4} (h : 0 < op.toNat ∧ op.toNat < 8) (f1 f2 : BitVec 3) :
    HasLength dbl [firstWord op f1 f2] := by
  simp [HasLength, instructionLength_eq, h.1.ne', h.2.ne, h.2]

theorem hasLength_encodeShift (dbl : Bool) (bla : BitVec 3) (r : Reg) (n : Count) :
    HasLength dbl (encodeShift bla r n) := hasLength_internal dbl (by decide) _ _

theorem hasLength_encodeRegisters (dbl : Bool) {op : BitVec 4} (h : 0 < op.toNat ∧ op.toNat < 8) (s d : Reg) :
    HasLength dbl (encodeRegisters op s d) := hasLength_internal dbl h _ _

theorem hasLength_encodeBranch (dbl : Bool) (dir : Dir) (x : BitVec 1) (condition : BitVec 4) (disp : Word) :
    HasLength dbl (encodeBranch dir x condition disp) := by
  have hop := bits_branchWord_operation dir.bit x condition
  rw [HasLength, encodeBranch, List.headD_cons, instructionLength_eq, hop]
  rfl

/-- The length of an external reference data access, by its mode field (R114, R121). -/
theorem instructionLength_external (dbl : Bool) {op : BitVec 4} (h : 9 ≤ op.toNat) (mode r : BitVec 3) :
    instructionLength dbl (firstWord op mode r) =
      if mode.toNat = 0 then 2 else if mode.toNat = 7 then 2 + dbl.toNat else 1 := by
  rw [instructionLength_eq, bits_firstWord_operation, bits_firstWord_f1, if_neg (by omega), if_neg (by omega),
    if_neg (by omega)]

theorem hasLength_encodeDirect (dbl : Bool) {op : BitVec 4} (h : 9 ≤ op.toNat) (address : Word) (r : Reg) :
    HasLength dbl (encodeDirect op address r) := by
  simp [HasLength, encodeDirect, instructionLength_external dbl h]

theorem hasLength_encodeInputImmediate (dbl : Bool) {op : BitVec 4} (h : 9 ≤ op.toNat) (imm : Word) (r : Reg) :
    HasLength dbl (encodeInputImmediate op dbl imm r) := by
  cases dbl <;> simp [HasLength, encodeInputImmediate, encodeImmediate, instructionLength_external _ h]

theorem hasLength_encode_mvoi (dbl : Bool) (s : Reg) : HasLength dbl (encode dbl (.mvoi s)) := by
  have h : 9 ≤ (0b1001#4).toNat := by decide
  cases dbl <;> simp [HasLength, encode, instructionLength_external _ h]

theorem hasLength_encodeIndirect (dbl : Bool) {op : BitVec 4} (h : 9 ≤ op.toNat) {m : Reg}
    (hm : m.isPointer = true) (r : Reg) : HasLength dbl (encodeIndirect op m r) := by
  obtain ⟨hdirect, himmediate⟩ := num_toNat_of_isPointer hm
  simp [HasLength, encodeIndirect, instructionLength_external dbl h, hdirect, himmediate]

/-- The encoder writes as many words as the length of the first of them says, format by format. -/
theorem hasLength_encode (dbl : Bool) {i : Instr} (h : i.WellFormed) : HasLength dbl (encode dbl i) := by
  cases i with
  | hlt | sdbd | eis | dis | tci | clrc | setc => exact hasLength_single dbl (by decide)
  | incr _ | decr _ | comr _ | negr _ | adcr _ | rswd _ | gswd _ | nop _ | sin _ =>
    exact hasLength_single dbl (by simp)
  | j _ | je _ | jd _ | jsr _ _ | jsre _ _ | jsrd _ _ | undefJumpDe11 _ _ =>
    exact hasLength_encodeJump dbl _ _ _
  | swap _ _ | sll _ _ | rlc _ _ | sllc _ _ | slr _ _ | sar _ _ | rrc _ _ | sarc _ _ =>
    exact hasLength_encodeShift dbl _ _ _
  | movr _ _ | addr _ _ | subr _ _ | cmpr _ _ | andr _ _ | xorr _ _ | tstr _ | jr _ | clrr _ =>
    exact hasLength_encodeRegisters dbl (by decide) _ _
  | b _ _ | bc _ _ | bov _ _ | bpl _ _ | bze _ _ | blt _ _ | ble _ _ | busc _ _ | nopp _ _ | bnc _ _
  | bnov _ _ | bmi _ _ | bnze _ _ | bge _ _ | bgt _ _ | besc _ _ | bext _ _ _ | blgt _ _ | bllt _ _
  | beq _ _ | bneq _ _ => exact hasLength_encodeBranch dbl _ _ _ _
  | mvo _ _ | mvi _ _ | add _ _ | sub _ _ | cmp _ _ | and _ _ | xor _ _ =>
    exact hasLength_encodeDirect dbl (by decide) _ _
  | mvii _ _ | addi _ _ | subi _ _ | cmpi _ _ | andi _ _ | xori _ _ =>
    exact hasLength_encodeInputImmediate dbl (by decide) _ _
  | mvoi s => exact hasLength_encode_mvoi dbl s
  | mvoAt _ _ | mviAt _ _ | addAt _ _ | subAt _ _ | cmpAt _ _ | andAt _ _ | xorAt _ _ =>
    exact hasLength_encodeIndirect dbl (by decide) h _
  | pshr _ | pulr _ => exact hasLength_encodeIndirect dbl (by decide) rfl _

/-- Settles O7: the length by the fields of the first word, and the encoder's words counted by format. -/
theorem instructionLengthFunction : Obligations.InstructionLengthFunction := by
  unfold Obligations.InstructionLengthFunction
  exact ⟨instructionLength_eq_arith, fun dbl _ h => hasLength_encode dbl h, rfl⟩

end Sys2Proof
end

section
/-! PROOFS. External references (spec/40_external_reference.md): what an output leaves in memory (R162, R164), what
a pull loads (R169), and which forms are refused (R161, R163). -/

namespace Sys2Proof.Machine

open Sys2Proof.Claims

variable {s : State}

/-! The word an output stores -/

/-- A location of `n` bits keeps a word modulo `2 ^ n` (R162). -/
theorem keep_toNat (n : Nat) (v : Word) : (keep n v).toNat = v.toNat % 2 ^ min 16 n := by
  apply Nat.eq_of_testBit_eq
  intro k
  rw [Nat.testBit_mod_two_pow]
  by_cases hk : k < 16
  · have hmin : k < n ↔ k < min 16 n := by omega
    rw [BitVec.testBit_toNat, keep_getLsbD v hk, BitVec.testBit_toNat, decide_eq_decide.mpr hmin]
  · have hmin : ¬k < min 16 n := by omega
    rw [BitVec.testBit_toNat, BitVec.getLsbD_of_ge _ _ (by omega), decide_eq_false hmin, Bool.false_and]

/-- A store changes at most the two cells of its word, and read/write memory alone (R72, R79). -/
theorem storedWord_store (s : State) (a v : Word) : StoredWord a v s (s.store a v) where
  others k h0 h1 := by
    rw [State.store_mem]
    split
    · exact Memory.readByte_writeWord_other h0 h1 _ _
    · rfl
  value hram hwf := by
    rw [State.store_mem, if_pos hram, Memory.readWord_writeWord_same _ _ hwf, keep_toNat]
  noRam hram := by rw [State.store_mem, if_neg hram]

/-- A write whose address register is loaded (R73, R74). -/
theorem storedAt_directWrite (s : State) (a v : Word) : StoredAt a v s (s.directWrite a v) where
  word := { storedWord_store s a v with }
  rest := by
    simp only [State.directWrite, State.strobe, State.emit, State.store_eq]

/-- A write through a pointer: BAR and NACT load the address register first (R74). -/
theorem storedAt_busWrite (s : State) (a v : Word) : StoredAt a v (addressed a s) (s.busWrite a v) :=
  storedAt_directWrite (addressed a s) a v

/-! The stack (R164, R169) -/

/-- The operand of a pull is the word below the stack pointer, which is stepped back to it (R156). -/
theorem State.pointerOperand_r6 (s : State) :
    s.pointerOperand .r6 =
      (s.busValue (s.reg .r6 - 1), (afterRead s (s.reg .r6 - 1)).setReg .r6 (s.reg .r6 - 1)) := rfl

/-- What PULR does; a pull into R6 ends with the word read. -/
theorem exec_pulr (h : s.dbl = false) (d : Reg) :
    exec (.pulr d) s = .next (((afterRead s (s.reg .r6 - 1)).setReg .r6 (s.reg .r6 - 1)).setReg d
      (s.busValue (s.reg .r6 - 1))) := by
  show s.inputIndirect .r6 (.load d) = _
  rw [State.inputIndirect_next, State.pointerOperand_r6]
  exact .inl ⟨h, rfl⟩

/-- What PSHR of another register than R6 does. -/
theorem exec_pshr (h : s.dbl = false) {src : Reg} (hsrc : src ≠ .r6) :
    exec (.pshr src) s = .next ((s.setReg .r6 (s.reg .r6 + 1)).busWrite (s.reg .r6) (s.reg src)) := by
  have hstep : autoUpdated .r6 = true := rfl
  refine State.outputIndirect_next.mpr ⟨h, fun hown => hsrc hown.1, ?_⟩
  rw [State.outputAddress_value, State.outputAddress_state, if_pos hstep, State.reg_setReg_other _ _ _ _ hsrc]

/-- PSHR of R6 stores the pointer that its mode steps (U3, D15). -/
theorem exec_pshr_r6 (h : s.dbl = false) : exec (.pshr .r6) s = .refused .moveOutOfOwnPointer := by
  show s.outputIndirect .r6 .r6 = _
  simp [State.outputIndirect, h, autoUpdated]

/-- Settles O37: the pulled register is written last, over the stepped R6. -/
theorem pulrPullsFromStack : Obligations.PulrPullsFromStack := by
  unfold Obligations.PulrPullsFromStack
  refine fun d s h => ⟨⟨_, exec_pulr h d, State.reg_setReg_same .., fun hd => ?_, ⟨fun r hr => ?_, rfl⟩⟩, ?_,
    fun _ => rfl⟩
  · rw [State.reg_setReg_other _ _ _ _ hd.symm, State.reg_setReg_same]
  · obtain ⟨hrd, hr6⟩ : r ≠ d ∧ r ≠ .r6 := by simpa using hr
    rw [State.reg_setReg_other _ _ _ _ hrd, State.reg_setReg_other _ _ _ _ hr6]
  · simp [Instr.cycles, indirectCycles, h]

/-- Settles O44: a bus write at R6, from the state in which R6 is stepped. -/
theorem pshrPushesOnStack : Obligations.PshrPushesOnStack := by
  unfold Obligations.PshrPushesOnStack
  refine ⟨fun src s h hsrc => ⟨⟨_, exec_pshr h hsrc, ?_⟩, rfl, fun _ => rfl⟩, fun s h => exec_pshr_r6 h⟩
  exact storedAt_busWrite (s.setReg .r6 (s.reg .r6 + 1)) (s.reg .r6) (s.reg src)

/-! The refused forms (spec/93_implementation_defined.md U1 to U4) -/

/-- The result is a next state where no reason to refuse is given, and else the refusal for that reason. -/
def RefusedFor : Option Refusal → Result → Prop
  | none, x => ∃ t, x = .next t
  | some r, x => x = .refused r

theorem RefusedFor.next_iff {why : Option Refusal} {x : Result} (h : RefusedFor why x) :
    (∃ t, x = .next t) ↔ why = none := by
  cases why with
  | none => exact iff_of_true h rfl
  | some r =>
    obtain rfl : x = .refused r := h
    simp

theorem RefusedFor.refused_iff {why : Option Refusal} {x : Result} (h : RefusedFor why x) {r : Refusal} :
    x = .refused r ↔ why = some r := by
  cases why with
  | none =>
    obtain ⟨t, rfl⟩ := h
    simp
  | some r' =>
    obtain rfl : x = .refused r' := h
    simp

/-! Each shared operation refuses for one reason -/

/-- Refused after SDBD and not else: `State.unlessDbl` (U2) and `State.inputDirect` (U1). Stated of the next state
`t`, because unification does not find the continuation that computes it. -/
theorem refusedFor_afterSdbd (dbl : Bool) (r : Refusal) (t : State) :
    RefusedFor (if dbl then some r else none) (if dbl then .refused r else .next t) := by
  split
  · rfl
  · exact ⟨t, rfl⟩

theorem refusedFor_inputImmediate (s : State) (v : Word) (k : Word → State → State) :
    RefusedFor none (s.inputImmediate v k) := ⟨_, rfl⟩

theorem refusedFor_inputIndirect (s : State) (m : Reg) (k : Word → State → State) :
    RefusedFor (if decide (m = .r6) && s.dbl then some .doubleByteModeNotSupported else none)
      (s.inputIndirect m k) := by
  unfold State.inputIndirect
  by_cases h6 : m = .r6 <;> cases s.dbl <;> simp [h6, RefusedFor]

/-- `own` says that the output stores the pointer its mode steps. -/
theorem refusedFor_outputIndirect (s : State) {src m : Reg} {own : Bool}
    (hown : own = true ↔ src = m ∧ autoUpdated m = true) :
    RefusedFor (if s.dbl then some .doubleByteNotForThisInstruction
      else if own then some .moveOutOfOwnPointer else none) (s.outputIndirect src m) := by
  unfold State.outputIndirect
  simp only [← hown]
  split
  · rfl
  · split
    · rfl
    · exact ⟨_, rfl⟩

/-! The reason by the form of the instruction -/

/-- Why the spec gives the instruction no meaning when the double-byte flag is `dbl`: U1, U2, U3, U4 in this
order. -/
def refusalReason (i : Instr) (dbl : Bool) : Option Refusal :=
  if isDirectOrStackInput i && dbl then some .doubleByteModeNotSupported
  else if !isDataInput i && dbl then some .doubleByteNotForThisInstruction
  else if i.storesOwnPointer then some .moveOutOfOwnPointer
  else if i.isUndefinedJump then some .jumpInterruptControl11
  else none

/-- R4 to R7 are the registers that a mode updates (R154 to R156). -/
theorem storesOwnPointer_mvoAt (src m : Reg) :
    (Instr.mvoAt src m).storesOwnPointer = true ↔ src = m ∧ autoUpdated m = true := by
  cases m <;> simp [Instr.storesOwnPointer, autoUpdated]

theorem storesOwnPointer_mvoi (src : Reg) :
    (Instr.mvoi src).storesOwnPointer = true ↔ src = .r7 ∧ autoUpdated .r7 = true := by
  simp [Instr.storesOwnPointer, autoUpdated]

theorem storesOwnPointer_pshr (src : Reg) :
    (Instr.pshr src).storesOwnPointer = true ↔ src = .r6 ∧ autoUpdated .r6 = true := by
  simp [Instr.storesOwnPointer, autoUpdated]

theorem refusedFor_undefJump (s : State) :
    RefusedFor (if s.dbl then some .doubleByteNotForThisInstruction else some .jumpInterruptControl11)
      (execUndefJumpDe11 s) := by
  unfold execUndefJumpDe11
  split <;> rfl

/-- Every instruction is refused for the reason its form gives, and else has a next state: by the shared operation
that the instruction goes through. -/
theorem exec_refusedFor (i : Instr) (s : State) : RefusedFor (refusalReason i s.dbl) (exec i s) := by
  cases i with
  | hlt | sdbd | eis | dis | tci | clrc | setc => exact refusedFor_afterSdbd s.dbl _ _
  | j _ | je _ | jd _ | jsr _ _ | jsre _ _ | jsrd _ _ => exact refusedFor_afterSdbd s.dbl _ _
  | undefJumpDe11 _ _ => exact refusedFor_undefJump s
  | incr _ | decr _ | comr _ | negr _ | adcr _ | rswd _ | gswd _ | nop _ | sin _ =>
    exact refusedFor_afterSdbd s.dbl _ _
  | swap _ _ | sll _ _ | rlc _ _ | sllc _ _ | slr _ _ | sar _ _ | rrc _ _ | sarc _ _ =>
    exact refusedFor_afterSdbd s.dbl _ _
  | movr _ _ | addr _ _ | subr _ _ | cmpr _ _ | andr _ _ | xorr _ _ | tstr _ | jr _ | clrr _ =>
    exact refusedFor_afterSdbd s.dbl _ _
  | b _ _ | bc _ _ | bov _ _ | bpl _ _ | bze _ _ | blt _ _ | ble _ _ | busc _ _ | nopp _ _ | bnc _ _
  | bnov _ _ | bmi _ _ | bnze _ _ | bge _ _ | bgt _ _ | besc _ _ | bext _ _ _ | blgt _ _ | bllt _ _
  | beq _ _ | bneq _ _ => exact refusedFor_afterSdbd s.dbl _ _
  | mvo _ _ => exact refusedFor_afterSdbd s.dbl _ _
  | mvoi src => exact refusedFor_outputIndirect s (storesOwnPointer_mvoi src)
  | mvoAt src m => exact refusedFor_outputIndirect s (storesOwnPointer_mvoAt src m)
  | pshr src => exact refusedFor_outputIndirect s (storesOwnPointer_pshr src)
  | mvi _ _ | add _ _ | sub _ _ | cmp _ _ | and _ _ | xor _ _ => exact refusedFor_afterSdbd s.dbl _ _
  | mvii _ _ | addi _ _ | subi _ _ | cmpi _ _ | andi _ _ | xori _ _ => exact refusedFor_inputImmediate s _ _
  | mviAt m _ | addAt m _ | subAt m _ | cmpAt m _ | andAt m _ | xorAt m _ =>
    exact refusedFor_inputIndirect s m _
  | pulr _ => exact refusedFor_inputIndirect s .r6 _

/-- What may follow SDBD are the data inputs, but for the direct and the stack mode (R161, R399). -/
theorem mayFollowSdbd_eq (i : Instr) : i.mayFollowSdbd = (isDataInput i && !isDirectOrStackInput i) := by
  cases i with
  | mviAt m _ | addAt m _ | subAt m _ | cmpAt m _ | andAt m _ | xorAt m _ => exact decide_not
  | _ => rfl

/-- An instruction has a meaning where there is no reason to refuse it. -/
theorem supported_iff (i : Instr) (dbl : Bool) : i.supported dbl = true ↔ refusalReason i dbl = none := by
  rw [Instr.supported, mayFollowSdbd_eq, refusalReason]
  grind

/-- Each reason names a case that holds. -/
theorem refusalReason_some {i : Instr} {dbl : Bool} {r : Refusal} (h : refusalReason i dbl = some r) :
    (r = .doubleByteModeNotSupported ∧ dbl = true ∧ isDirectOrStackInput i = true) ∨
    (r = .doubleByteNotForThisInstruction ∧ dbl = true ∧ isDataInput i = false) ∨
    (r = .moveOutOfOwnPointer ∧ i.storesOwnPointer = true) ∨
    (r = .jumpInterruptControl11 ∧ i.isUndefinedJump = true) := by
  unfold refusalReason at h
  simp only [Bool.and_eq_true, Bool.not_eq_true'] at h
  split_ifs at h with hmode hinput hown hjump <;> obtain rfl := Option.some.inj h
  · exact .inl ⟨rfl, hmode.2, hmode.1⟩
  · exact .inr (.inl ⟨rfl, hinput.2, hinput.1⟩)
  · exact .inr (.inr (.inl ⟨rfl, hown⟩))
  · exact .inr (.inr (.inr ⟨rfl, hjump⟩))

/-- Settles O11: the reason to refuse decides what `exec` answers, and there is none where the instruction is
supported. -/
theorem refusedExactlyWhereUnsupported : Obligations.RefusedExactlyWhereUnsupported := by
  unfold Obligations.RefusedExactlyWhereUnsupported
  intro i s _
  have hexec := exec_refusedFor i s
  exact ⟨hexec.next_iff.trans (supported_iff i s.dbl).symm,
    fun _ hr => refusalReason_some (hexec.refused_iff.mp hr)⟩

end Sys2Proof.Machine
end

section
/-! PROOFS. The branches (spec/41_branches.md): the fields of a branch word (R115), the state after a branch (R200),
and what each internal branch tests (R201 to R216). -/

namespace Sys2Proof.Machine

open Sys2Proof.Claims

/-! The words -/

section
variable {c : Nat} (hc : c < 16) (dir : Dir)
include hc

/-- The direction stands 5 bits above the lowest bit of the condition, below the operation 1000. -/
theorem branchWord_toNat : (branchWord dir c).toNat = 512 + (if dir = .backward then 32 else 0) + c := by
  rw [branchWord, BitVec.toNat_ofNat, Nat.mod_eq_of_lt]
  split <;> omega

theorem branchWord_operation : (bits (branchWord dir c) 6 4).toNat = 8 := by
  rw [toNat_bits, branchWord_toNat hc]
  split <;> omega

theorem branchWord_condition : (bits (branchWord dir c) 0 4).toNat = c := by
  rw [toNat_bits, branchWord_toNat hc]
  split <;> omega

theorem branchWord_internal : (branchWord dir c).getLsbD 4 = false := by
  rw [← BitVec.testBit_toNat, Nat.testBit_eq_decide_div_mod_eq, branchWord_toNat hc, decide_eq_false_iff_not]
  split <;> omega

theorem branchWord_direction : Dir.ofBit ((branchWord dir c).getLsbD 5) = dir := by
  rw [← BitVec.testBit_toNat, Nat.testBit_eq_decide_div_mod_eq, branchWord_toNat hc, Dir.ofBit]
  cases dir with
  | forward => exact if_neg (by simp only [reduceCtorEq, if_false, decide_eq_true_eq]; omega)
  | backward => exact if_pos (by simp only [if_true, decide_eq_true_eq]; omega)

/-- The decoder of branches sees the word whatever D and the third word are (R115). -/
theorem decode_branchWord (dbl : Bool) (disp w3 : Word) :
    decode dbl (branchWord dir c) disp w3 = decodeBranch (branchWord dir c) disp := by
  simp only [decode, branchWord_operation hc dir]

end

/-- The condition field has four bits. -/
theorem internalBranches_condition_lt : ∀ row ∈ internalBranches, row.1 < 16 := by decide

/-- The words of each internal branch select it by the condition field (R115). -/
theorem decode_internalBranch (row : Nat × (Dir → Word → Instr) × (Status → Bool)) (hrow : row ∈ internalBranches)
    (dbl : Bool) (dir : Dir) (disp w3 : Word) : decode dbl (branchWord dir row.1) disp w3 = row.2.1 dir disp := by
  have hc := internalBranches_condition_lt row hrow
  simp only [decode_branchWord hc, decodeBranch, branchWord_internal hc, branchWord_direction hc,
    branchWord_condition hc, Bool.false_eq_true, if_false]
  clear hc
  revert row
  simp only [internalBranches, List.forall_mem_cons, List.not_mem_nil, false_imp_iff, implies_true, and_true]

/-! The state after a branch -/

/-- Adding the complement of the displacement is going back by the displacement and one (R200). -/
theorem branchTarget_backward (pc disp : Word) : branchTarget pc .backward disp = pc - disp - 1 := by
  simp only [branchTarget]
  bv_omega

theorem State.branchIf_eq_afterBranch (s : State) (taken : Bool) (dir : Dir) (disp : Word) :
    s.branchIf taken dir disp = afterBranch taken dir disp s := by
  cases taken with
  | false => rfl
  | true =>
    cases dir with
    | forward => rfl
    | backward =>
      show s.setPc (branchTarget s.pc .backward disp) = _
      rw [branchTarget_backward]
      rfl

/-! What each branch tests -/

/-- The instruction is the branch taken on `taken`: its meaning and its cycles both test that condition. -/
def BranchesOn (instr : Dir → Word → Instr) (taken : Status → Bool) : Prop :=
  ∀ (dir : Dir) (disp : Word) (s : State),
    exec (instr dir disp) s = s.unlessDbl (fun s => s.branchIf (taken s.status) dir disp) ∧
    (instr dir disp).cycles s = branchCycles (taken s.status)

theorem BranchesOn.exec_next {instr : Dir → Word → Instr} {taken : Status → Bool} (h : BranchesOn instr taken)
    (dir : Dir) (disp : Word) {s : State} (hdbl : s.dbl = false) :
    exec (instr dir disp) s = .next (afterBranch (taken s.status) dir disp s) := by
  rw [(h dir disp s).1, State.unlessDbl_next]
  exact ⟨hdbl, (s.branchIf_eq_afterBranch ..).symm⟩

/-- The condition of each row is the one its instruction tests, once a comparison with true is dropped and one with
false is read as a negation (R201 to R216). -/
theorem internalBranch_branchesOn : ∀ row ∈ internalBranches, BranchesOn row.2.1 row.2.2 := by
  simp only [internalBranches, beq_true, beq_false, List.forall_mem_cons, List.not_mem_nil, false_imp_iff,
    implies_true, and_true]
  and_intros
  all_goals exact fun _ _ _ => ⟨rfl, rfl⟩

/-- Settles O33: the fields of the word select the row, and the row's instruction branches on its condition. -/
theorem internalBranches : Obligations.InternalBranches := by
  unfold Obligations.InternalBranches
  intro c instr cond hrow
  have hbranch : BranchesOn instr cond := internalBranch_branchesOn _ hrow
  exact ⟨decode_internalBranch (c, instr, cond) hrow, fun dir disp s hdbl =>
    ⟨hbranch.exec_next dir disp hdbl, (hbranch dir disp s).2⟩⟩

end Sys2Proof.Machine
end

section
/-! PROOFS. Register to register (spec/42_register_register.md): the word of the format (R116), what a result leaves
that sets S and Z alone, and the moves (R231, R237, R238) and the logic (R235, R236, R239) built on it. -/

namespace Sys2Proof.Machine

open Sys2Proof.Claims

/-! The word -/

/-- The number of a register selects it (R30). -/
@[simp] theorem ofBits_num (r : Reg) : Reg.ofBits r.num = r := by
  cases r <;> rfl

theorem firstWord_toNat (op : BitVec 4) (f1 f2 : BitVec 3) :
    (firstWord op f1 f2).toNat = 64 * op.toNat + 8 * f1.toNat + f2.toNat := by
  rw [firstWord, BitVec.toNat_append, ← Nat.shiftLeft_add_eq_or_of_lt f2.isLt,
    BitVec.toNat_append, ← Nat.shiftLeft_add_eq_or_of_lt f1.isLt,
    BitVec.toNat_append, ← Nat.shiftLeft_add_eq_or_of_lt op.isLt]
  simp only [Nat.shiftLeft_eq, BitVec.toNat_ofNat]
  omega

/-- A source and a destination register stand in the fields F1 and F2 of the word (R112, R116). -/
theorem withRegs_eq_firstWord {base : Nat} (op : BitVec 4) (hbase : base = 64 * op.toNat) (src d : Reg) :
    withRegs base src d = firstWord op src.num d.num := by
  apply BitVec.eq_of_toNat_eq
  have hlt := (firstWord op src.num d.num).isLt
  rw [firstWord_toNat] at hlt ⊢
  rw [withRegs, hbase, BitVec.toNat_ofNat, Nat.mod_eq_of_lt hlt]

theorem decode_movrWord (dbl : Bool) (src d : Reg) (w2 w3 : Word) :
    decode dbl (withRegs 0b0010000000 src d) w2 w3 = .movr src d := by
  rw [withRegs_eq_firstWord (base := 0b0010000000) 0b0010 rfl]
  simp [decode]

theorem decode_andrWord (dbl : Bool) (src d : Reg) (w2 w3 : Word) :
    decode dbl (withRegs 0b0110000000 src d) w2 w3 = .andr src d := by
  rw [withRegs_eq_firstWord (base := 0b0110000000) 0b0110 rfl]
  simp [decode]

theorem decode_xorrWord (dbl : Bool) (src d : Reg) (w2 w3 : Word) :
    decode dbl (withRegs 0b0111000000 src d) w2 w3 = .xorr src d := by
  rw [withRegs_eq_firstWord (base := 0b0111000000) 0b0111 rfl]
  simp [decode]

/-! A result in a register, with S and Z of it -/

section
variable (s : State) (d : Reg) (v : Word)

@[simp] theorem State.reg_setLogic_same : (s.setLogic d v).reg d = v := State.reg_setReg_same ..

/-- S is the top bit, which is the sign (R41); C and OV keep theirs. -/
theorem logicStatus_setLogic : LogicStatus v s.status (s.setLogic d v).status where
  signZero := ⟨msb_eq_neg v, rfl⟩
  carry := rfl
  overflow := rfl

/-- S and Z are of what the register then holds. -/
theorem logicStatus_setLogic_reg : LogicStatus ((s.setLogic d v).reg d) s.status (s.setLogic d v).status := by
  rw [State.reg_setLogic_same]
  exact logicStatus_setLogic s d v

theorem onlyRegsStatus_setLogic : OnlyRegsStatus [d] s (s.setLogic d v) where
  regs _ hr := State.reg_setReg_other _ _ _ _ (List.ne_of_not_mem_cons hr)
  rest := rfl

/-- A register rewritten with its own value keeps it (R237). -/
theorem onlyRegsStatus_setLogic_self : OnlyRegsStatus [] s (s.setLogic d (s.reg d)) where
  regs r _ := by
    by_cases hr : r = d
    · rw [hr, State.reg_setLogic_same]
    · exact State.reg_setReg_other _ _ _ _ hr
  rest := rfl

end

/-! What each instruction does -/

section
variable {s : State} (h : s.dbl = false) (src d : Reg)

/-! TSTR, JR and CLRR mean what the instructions mean whose words they have (R127, R237 to R239). -/

theorem exec_tstr : exec (.tstr src) s = exec (.movr src src) s := rfl

theorem exec_jr : exec (.jr src) s = exec (.movr src .r7) s := rfl

theorem exec_clrr : exec (.clrr d) s = exec (.xorr d d) s := rfl

include h

theorem exec_movr : exec (.movr src d) s = .next (s.setLogic d (s.reg src)) := by
  show execMovr src d s = _
  exact State.unlessDbl_next.mpr ⟨h, rfl⟩

theorem exec_andr : exec (.andr src d) s = .next (s.setLogic d (s.reg d &&& s.reg src)) := by
  show execAndr src d s = _
  exact State.unlessDbl_next.mpr ⟨h, rfl⟩

theorem exec_xorr : exec (.xorr src d) s = .next (s.setLogic d (s.reg d ^^^ s.reg src)) := by
  show execXorr src d s = _
  exact State.unlessDbl_next.mpr ⟨h, rfl⟩

/-- A register has no bit in which it differs from itself. -/
theorem exec_clrr_zero : exec (.clrr d) s = .next (s.setLogic d 0) := by
  rw [exec_clrr, exec_xorr h, BitVec.xor_self]
  rfl

end

/-- Settles O23: TSTR and JR are MOVR to the source and to R7, in meaning, cycles and words. -/
theorem moveTestAndJumpRegister : Obligations.MoveTestAndJumpRegister := by
  unfold Obligations.MoveTestAndJumpRegister
  intro src d s h
  have hmove (r : Reg) := exec_movr h src r
  have hstatus (r : Reg) := logicStatus_setLogic s r (s.reg src)
  have hframe (r : Reg) := onlyRegsStatus_setLogic s r (s.reg src)
  refine ⟨⟨_, hmove d, State.reg_setLogic_same .., hstatus d, hframe d⟩,
    ⟨_, ?tstr, hstatus src, onlyRegsStatus_setLogic_self s src⟩,
    ⟨_, ?jr, State.reg_setLogic_same .., hstatus .r7, hframe .r7⟩,
    rfl, rfl, rfl, fun _ => ⟨rfl, rfl⟩, fun dbl => decode_movrWord dbl src d⟩
  case tstr => rw [exec_tstr, hmove]
  case jr => rw [exec_jr, hmove]

/-- Settles O24: the three are one write of a result with S and Z of it, and the result of CLRR is 0. -/
theorem logicRegisters : Obligations.LogicRegisters := by
  unfold Obligations.LogicRegisters
  intro src d s h
  have hstatus (v : Word) := logicStatus_setLogic_reg s d v
  have hframe (v : Word) := onlyRegsStatus_setLogic s d v
  refine ⟨⟨_, exec_andr h src d, fun k _ => ?andr, hstatus _, hframe _⟩,
    ⟨_, exec_xorr h src d, fun k _ => ?xorr, hstatus _, hframe _⟩,
    ⟨_, exec_clrr_zero h d, State.reg_setLogic_same .., rfl, hframe 0⟩,
    rfl, rfl, rfl, fun _ => rfl,
    fun dbl w2 w3 => ⟨decode_andrWord dbl src d w2 w3, decode_xorrWord dbl src d w2 w3⟩⟩
  case andr => rw [State.reg_setLogic_same, BitVec.getLsbD_and]
  case xorr => rw [State.reg_setLogic_same, BitVec.getLsbD_xor]

end Sys2Proof.Machine
end

section
/-! PROOFS. Single register (spec/44_single_register.md): the word of the format (R118), then INCR, DECR and COMR
(R280 to R282) and the two that move the status bits (R285, R288). -/

namespace Sys2Proof.Machine

open Sys2Proof.Claims

/-! The word -/

/-- The operation is 0 and the register stands in the field F2 (R112, R118). -/
theorem withReg_eq_firstWord {base : Nat} (f1 : BitVec 3) (hbase : base = 8 * f1.toNat) (r : Reg) :
    withReg base r = firstWord 0b0000 f1 r.num := by
  apply BitVec.eq_of_toNat_eq
  simp only [withReg, hbase, firstWord_toNat, BitVec.ofNat_eq_ofNat, BitVec.toNat_ofNat]
  omega

section
variable (dbl : Bool) (r : Reg) (w2 w3 : Word)

/-- The decoder of operation 0 sees the word whatever D is. -/
theorem decode_withReg {base : Nat} (f1 : BitVec 3) (hbase : base = 8 * f1.toNat) :
    decode dbl (withReg base r) w2 w3 = decodeSingle (firstWord 0b0000 f1 r.num) w2 w3 := by
  simp [withReg_eq_firstWord f1 hbase, decode]

theorem decode_incrWord : decode dbl (withReg 0b001000 r) w2 w3 = .incr r := by
  rw [decode_withReg (base := 0b001000) (f1 := 0b001) (hbase := rfl)]
  simp [decodeSingle]

theorem decode_decrWord : decode dbl (withReg 0b010000 r) w2 w3 = .decr r := by
  rw [decode_withReg (base := 0b010000) (f1 := 0b010) (hbase := rfl)]
  simp [decodeSingle]

theorem decode_comrWord : decode dbl (withReg 0b011000 r) w2 w3 = .comr r := by
  rw [decode_withReg (base := 0b011000) (f1 := 0b011) (hbase := rfl)]
  simp [decodeSingle]

theorem decode_rswdWord : decode dbl (withReg 0b111000 r) w2 w3 = .rswd r := by
  rw [decode_withReg (base := 0b111000) (f1 := 0b111) (hbase := rfl)]
  simp [decodeSingle]

end

/-- The field DD has two bits (R32). -/
theorem wellFormed_gswd_iff (d : Reg) : (Instr.gswd d).WellFormed ↔ d = .r0 ∨ d = .r1 ∨ d = .r2 ∨ d = .r3 := by
  cases d <;> decide

/-- One word for each register that DD names. -/
theorem decode_gswdWord {d : Reg} (hd : (Instr.gswd d).WellFormed) (dbl : Bool) (w2 w3 : Word) :
    decode dbl (withReg 0b110000 d) w2 w3 = .gswd d := by
  obtain rfl | rfl | rfl | rfl := (wellFormed_gswd_iff d).mp hd
  all_goals rfl

/-! The status word -/

/-- C, OV, Z and S stand above one another in each byte, over four zeros: once the concatenation is taken apart, each
of the sixteen bits computes (R44). -/
theorem Status.getLsbD_word (f : Status) {k : Nat} (hk : k < 16) : f.word.getLsbD k =
    (if k = 4 ∨ k = 12 then f.c else if k = 5 ∨ k = 13 then f.ov
     else if k = 6 ∨ k = 14 then f.z else if k = 7 ∨ k = 15 then f.s else false) := by
  simp only [Status.word, BitVec.getLsbD_append, BitVec.getLsbD_ofBool]
  interval_cases k
  all_goals rfl

/-! What each instruction does -/

section
variable {s : State} (h : s.dbl = false) (r : Reg)
include h

theorem exec_incr : exec (.incr r) s = .next (s.setLogic r (s.reg r + 1)) := by
  show execIncr r s = _
  exact State.unlessDbl_next.mpr ⟨h, rfl⟩

theorem exec_decr : exec (.decr r) s = .next (s.setLogic r (s.reg r - 1)) := by
  show execDecr r s = _
  exact State.unlessDbl_next.mpr ⟨h, rfl⟩

theorem exec_comr : exec (.comr r) s = .next (s.setLogic r (~~~s.reg r)) := by
  show execComr r s = _
  exact State.unlessDbl_next.mpr ⟨h, rfl⟩

theorem exec_gswd : exec (.gswd r) s = .next (s.setReg r s.status.word) := by
  show execGswd r s = _
  exact State.unlessDbl_next.mpr ⟨h, rfl⟩

theorem exec_rswd : exec (.rswd r) s = .next (s.setStatus (.ofWord (s.reg r))) := by
  show execRswd r s = _
  exact State.unlessDbl_next.mpr ⟨h, rfl⟩

end

/-- Settles O21: the status bits read from the word are its bits 4 to 7. -/
theorem rswdRestoresStatus : Obligations.RswdRestoresStatus := by
  unfold Obligations.RswdRestoresStatus
  exact fun src s h => ⟨exec_rswd h src, fun dbl => decode_rswdWord dbl src⟩

/-- Settles O18: the three are one write of a result with S and Z of it, and the results are arithmetic modulo 2^16. -/
theorem incrementDecrementComplement : Obligations.IncrementDecrementComplement := by
  unfold Obligations.IncrementDecrementComplement
  intro d s h
  have hstatus (v : Word) := logicStatus_setLogic_reg s d v
  have hframe (v : Word) := onlyRegsStatus_setLogic s d v
  refine ⟨⟨_, exec_incr h d, ?incr, hstatus _, hframe _⟩, ⟨_, exec_decr h d, ?decr, hstatus _, hframe _⟩,
    ⟨_, exec_comr h d, ?comr, hstatus _, hframe _⟩, fun dbl w2 w3 =>
    ⟨decode_incrWord dbl d w2 w3, decode_decrWord dbl d w2 w3, decode_comrWord dbl d w2 w3⟩⟩
  all_goals rw [State.reg_setLogic_same]
  case incr => exact BitVec.toNat_add ..
  case decr => rw [BitVec.toNat_sub, Nat.add_comm]; rfl
  case comr => exact BitVec.toNat_not

/-- Settles O20: one write of the status word, bit by bit, and the words of register field 0 to 3. -/
theorem gswdBuildsStatusWord : Obligations.GswdBuildsStatusWord := by
  unfold Obligations.GswdBuildsStatusWord
  refine ⟨fun d s h => ⟨_, exec_gswd h d, ⟨fun r hr => ?_, rfl⟩, fun k hk => ?_⟩, wellFormed_gswd_iff,
    fun _ hd => decode_gswdWord hd, fun _ _ _ => ⟨rfl, rfl, rfl, rfl⟩⟩
  · exact State.reg_setReg_other _ _ _ _ (List.ne_of_not_mem_cons hr)
  · rw [State.reg_setReg_same, Status.getLsbD_word _ hk]

end Sys2Proof.Machine
end

section
/-! PROOFS. Internal control (spec/45_internal_control.md): CLRC and SETC (R305, R306). -/

namespace Sys2Proof.Machine

/-! The words -/

section
variable (dbl : Bool) (w2 w3 : Word)

/-- The words of operation 0 and F1 0 are told apart by F2 alone, whatever D and the following words are. -/
theorem decode_clrcWord : decode dbl 0x0006 w2 w3 = .clrc := rfl

theorem decode_setcWord : decode dbl 0x0007 w2 w3 = .setc := rfl

end

/-! What each instruction does -/

section
variable {s : State} (h : s.dbl = false)
include h

theorem exec_clrc : exec .clrc s = .next (s.setStatus { s.status with c := false }) := by
  show execClrc s = _
  exact State.unlessDbl_next.mpr ⟨h, rfl⟩

theorem exec_setc : exec .setc s = .next (s.setStatus { s.status with c := true }) := by
  show execSetc s = _
  exact State.unlessDbl_next.mpr ⟨h, rfl⟩

end

/-- Settles O13: each is one write of the status bits in which C alone is new. -/
theorem carryInstructions : Obligations.CarryInstructions := by
  unfold Obligations.CarryInstructions
  intro s h
  refine ⟨exec_clrc h, exec_setc h, fun _ => ⟨rfl, rfl⟩, fun dbl w2 w3 => ?words⟩
  case words => exact ⟨decode_clrcWord dbl w2 w3, decode_setcWord dbl w2 w3⟩

end Sys2Proof.Machine
end

section
/-! PROOFS. Jumps (spec/46_jump.md): the words of the format (R120), then J, JE and JD (R321, R323, R324) and the
three that save the return address (R322, R325, R326). -/

namespace Sys2Proof.Machine

open Sys2Proof.Claims

/-! The words -/

/-- BB, the six upper address bits and DE stand above one another in the second word, the ten lower address bits in
the third (R120). -/
theorem encodeJump_eq_jumpWords (bb : BitVec 2) (a : Word) (de : BitVec 2) :
    encodeJump bb a de = jumpWords bb.toNat a de.toNat := by
  have hbb := bb.isLt
  have ha := a.isLt
  have hde := de.isLt
  have hsecond : 0#6 ++ bb ++ bits a 10 6 ++ de = BitVec.ofNat 16 (256 * bb.toNat + a.toNat / 1024 * 4 + de.toNat) := by
    apply BitVec.eq_of_toNat_eq
    rw [BitVec.toNat_append, ← Nat.shiftLeft_add_eq_or_of_lt hde,
      BitVec.toNat_append, ← Nat.shiftLeft_add_eq_or_of_lt (BitVec.isLt _),
      BitVec.toNat_append, ← Nat.shiftLeft_add_eq_or_of_lt hbb, toNat_bits]
    simp only [Nat.shiftLeft_eq, BitVec.toNat_ofNat]
    omega
  have hthird : 0#6 ++ bits a 0 10 = BitVec.ofNat 16 (a.toNat % 1024) := by
    apply BitVec.eq_of_toNat_eq
    rw [BitVec.toNat_append, ← Nat.shiftLeft_add_eq_or_of_lt (BitVec.isLt _), toNat_bits]
    simp only [Nat.shiftLeft_eq, BitVec.toNat_ofNat]
    omega
  exact congrArg₂ (fun second third => [0x0004, second, third]) hsecond hthird

/-- BB names R4, R5 and R6 (R322). -/
theorem wellFormed_jsr_iff (link : Reg) (a : Word) :
    (Instr.jsr link a).WellFormed ↔ link = .r4 ∨ link = .r5 ∨ link = .r6 := by
  show link.isLink = true ↔ _
  cases link <;> decide

theorem linkBits_toNat {link : Reg} (hlink : link = .r4 ∨ link = .r5 ∨ link = .r6) :
    (linkBits link).toNat = link.num.toNat - 4 := by
  obtain rfl | rfl | rfl := hlink
  all_goals rfl

/-! A jump that saves the return address -/

section
variable (s : State) (link : Reg) (intff : Option Bool) (a : Word)

theorem State.regs_jump_some : (s.jump (some link) intff a).regs = (s.regs.set link s.pc).set .r7 a := by
  rw [State.jump_some]

theorem State.reg_r7_jump_some : (s.jump (some link) intff a).reg .r7 = a := by
  rw [State.reg, State.regs_jump_some, Regs.get_set_same]

/-- The program counter has not been written yet when the link register takes it (R320). -/
theorem State.reg_link_jump_some (hlink : link ≠ .r7) : (s.jump (some link) intff a).reg link = s.reg .r7 := by
  rw [State.reg, State.regs_jump_some, Regs.get_set_other _ _ _ _ hlink, Regs.get_set_same, State.pc]

theorem State.intff_jump_some : (s.jump (some link) intff a).intff = intff.getD s.intff := by
  rw [State.jump_some]

theorem onlyRegs_jump_some :
    OnlyRegs [link, .r7] { s with intff := intff.getD s.intff } (s.jump (some link) intff a) where
  regs r hr := by
    obtain ⟨hlink, hr7⟩ : r ≠ link ∧ r ≠ .r7 := by simpa using hr
    rw [State.reg, State.regs_jump_some, Regs.get_set_other _ _ _ _ hr7, Regs.get_set_other _ _ _ _ hlink, State.reg]
  rest := by rw [State.jump_some]

end

/-! What each instruction does -/

section
variable {s : State} (h : s.dbl = false) (link : Reg) (a : Word)
include h

theorem exec_j : exec (.j a) s = .next (s.jump none none a) := by
  show execJ a s = _
  exact State.unlessDbl_next.mpr ⟨h, rfl⟩

theorem exec_je : exec (.je a) s = .next (s.jump none (some true) a) := by
  show execJe a s = _
  exact State.unlessDbl_next.mpr ⟨h, rfl⟩

theorem exec_jd : exec (.jd a) s = .next (s.jump none (some false) a) := by
  show execJd a s = _
  exact State.unlessDbl_next.mpr ⟨h, rfl⟩

theorem exec_jsr : exec (.jsr link a) s = .next (s.jump (some link) none a) := by
  show execJsr link a s = _
  exact State.unlessDbl_next.mpr ⟨h, rfl⟩

theorem exec_jsre : exec (.jsre link a) s = .next (s.jump (some link) (some true) a) := by
  show execJsre link a s = _
  exact State.unlessDbl_next.mpr ⟨h, rfl⟩

theorem exec_jsrd : exec (.jsrd link a) s = .next (s.jump (some link) (some false) a) := by
  show execJsrd link a s = _
  exact State.unlessDbl_next.mpr ⟨h, rfl⟩

end

/-- Settles O30: without a link register a jump writes R7 and INTFF alone, and BB is 3. -/
theorem jumps : Obligations.Jumps := by
  unfold Obligations.Jumps
  intro a s h
  have hwords (de : BitVec 2) := encodeJump_eq_jumpWords 0b11 a de
  refine ⟨?j, ?je, ?jd, rfl, rfl, rfl, fun _ => ⟨hwords 0b00, hwords 0b01, hwords 0b10⟩⟩
  case j => rw [exec_j h, State.jump_none]; rfl
  case je => rw [exec_je h, State.jump_none]; rfl
  case jd => rw [exec_jd h, State.jump_none]; rfl

/-- Settles O31: a link register is not R7, so the return address in it outlives the write of the program counter. -/
theorem jumpsSaveReturn : Obligations.JumpsSaveReturn := by
  unfold Obligations.JumpsSaveReturn
  intro link a s hwf h
  have hlink := (wellFormed_jsr_iff link a).mp hwf
  have hne : link ≠ .r7 := by rintro rfl; simp at hlink
  have hreturn (intff : Option Bool) := State.reg_link_jump_some s link intff a hne
  have htarget (intff : Option Bool) := State.reg_r7_jump_some s link intff a
  have hframe (intff : Option Bool) := onlyRegs_jump_some s link intff a
  have hwords (de : BitVec 2) : encodeJump (linkBits link) a de = jumpWords (link.num.toNat - 4) a de.toNat := by
    rw [encodeJump_eq_jumpWords, linkBits_toNat hlink]
  exact ⟨⟨_, exec_jsr h link a, hreturn _, htarget _, hframe none⟩,
    ⟨_, exec_jsre h link a, hreturn _, htarget _, State.intff_jump_some .., hframe (some true)⟩,
    ⟨_, exec_jsrd h link a, hreturn _, htarget _, State.intff_jump_some .., hframe (some false)⟩,
    fun _ => ⟨hwords 0b00, hwords 0b01, hwords 0b10⟩⟩

end Sys2Proof.Machine
end

section
/-! PROOFS. The decoder (spec/30_encoding.md): it reads back what the encoder writes, format by format (R110 to R127),
and what it answers to any words (R123). -/

namespace Sys2Proof

open Sys2Proof.Machine

/-! The fields of the words of each format -/

/-- A bit of the field F2 (R112). -/
theorem getLsbD_firstWord_f2 (op : BitVec 4) (f1 f2 : BitVec 3) {k : Nat} (hk : k < 3) :
    (firstWord op f1 f2).getLsbD k = f2.getLsbD k := by
  rw [firstWord, BitVec.getLsbD_append, if_pos hk]

/-- The field RR or DD is the lower part of F2 (R117, R118). -/
theorem bits_firstWord_low (op : BitVec 4) (f1 f2 : BitVec 3) :
    bits (firstWord op f1 f2) 0 2 = f2.extractLsb' 0 2 := by
  rw [bits, firstWord, BitVec.extractLsb'_append_eq_of_add_le (by decide)]

/-- The number of a register that RR or DD can name selects it (R32). -/
theorem ofLowBits_num {r : Reg} (h : r.isLow = true) : Reg.ofLowBits (bits (r.num.zeroExtend 16) 0 2) = r := by
  cases r <;> first | rfl | cases h

/-- The link register that BB names (R322). -/
theorem ofLinkBits_linkBits {link : Reg} (h : link.isLink = true) :
    linkBits link ≠ 3 ∧ Reg.ofLinkBits (linkBits link) = link := by
  cases link <;> first | exact ⟨by decide, rfl⟩ | cases h

/-! What is decoded from the words of each format -/

/-- The decoder answers `i` to the words and any words after them. -/
def DecodesTo (dbl : Bool) (ws : List Word) (i : Instr) : Prop :=
  ∀ rest, decode dbl (ws.headD 0) ((ws.tail ++ rest).getD 0 0) ((ws.tail ++ rest).getD 1 0) = i

/-- Words with the length their first word announces are taken off the list. -/
theorem decodeWords_append {dbl : Bool} {ws : List Word} {i : Instr} (hlen : HasLength dbl ws)
    (hdec : DecodesTo dbl ws i) (rest : List Word) : decodeWords dbl (ws ++ rest) = .ok (i, rest) := by
  cases ws with
  | nil => cases dbl <;> cases hlen
  | cons w1 tail =>
    have hlength : tail.length + 1 = instructionLength dbl w1 := hlen
    have hi : decode dbl w1 ((tail ++ rest).getD 0 0) ((tail ++ rest).getD 1 0) = i := hdec rest
    have hdrop : (tail ++ rest).drop (instructionLength dbl w1 - 1) = rest := by
      rw [← hlength, Nat.add_sub_cancel, List.drop_left]
    have hfits : ¬(tail ++ rest).length + 1 < instructionLength dbl w1 := by
      rw [← hlength, List.length_append]
      omega
    rw [List.cons_append, decodeWords, if_neg hfits, hi, hdrop]

section
variable (dbl : Bool)

/-- The words with the three fields of a first word: what the decoder answers to any word with these fields (R112). -/
theorem decodesTo_firstWord {op : BitVec 4} {f1 f2 : BitVec 3} {tail : List Word} {i : Instr}
    (h : ∀ w rest, bits w 6 4 = op → bits w 3 3 = f1 → bits w 0 3 = f2 →
      decode dbl w ((tail ++ rest).getD 0 0) ((tail ++ rest).getD 1 0) = i) :
    DecodesTo dbl (firstWord op f1 f2 :: tail) i :=
  fun rest => h _ rest (bits_firstWord_operation ..) (bits_firstWord_f1 ..) (bits_firstWord_f2 ..)

/-- GSWD, NOP and SIN share one operation and are told apart by bits 2 and 1 (R118). -/
theorem decodesTo_statusRead {f2 : BitVec 3} {i : Instr}
    (h : ∀ w : Word, (∀ k < 3, w.getLsbD k = f2.getLsbD k) → bits w 0 2 = f2.extractLsb' 0 2 →
      decodeStatusRead w = i) : DecodesTo dbl [firstWord 0b0000 0b110 f2] i := by
  intro rest
  rw [List.headD_cons, decode, bits_firstWord_operation, ← h _ (fun _ hk => getLsbD_firstWord_f2 _ _ _ hk)
    (bits_firstWord_low ..)]
  show decodeSingle _ _ _ = _
  rw [decodeSingle, bits_firstWord_f1]
  rfl

theorem decodesTo_gswd {d : Reg} (hd : d.isLow = true) : DecodesTo dbl (encode dbl (.gswd d)) (.gswd d) := by
  refine decodesTo_statusRead dbl fun w hbit hlow => ?_
  rw [decodeStatusRead, hbit 2 (by decide), hlow, BitVec.extractLsb'_append_eq_of_add_le (by decide),
    BitVec.extractLsb'_eq_self, ofLowBits_num hd, BitVec.getLsbD_append]
  rfl

theorem decodesTo_nop (n : Bool) : DecodesTo dbl (encode dbl (.nop n)) (.nop n) := by
  refine decodesTo_statusRead dbl fun w hbit _ => ?_
  rw [decodeStatusRead, hbit 2 (by decide), hbit 1 (by decide), hbit 0 (by decide)]
  cases n <;> rfl

theorem decodesTo_sin (n : Bool) : DecodesTo dbl (encode dbl (.sin n)) (.sin n) := by
  refine decodesTo_statusRead dbl fun w hbit _ => ?_
  rw [decodeStatusRead, hbit 2 (by decide), hbit 1 (by decide), hbit 0 (by decide)]
  cases n <;> rfl

/-- The jump group (R120). -/
theorem decodesTo_jump {bb de : BitVec 2} {address : Word} {i : Instr}
    (h : ∀ w2 w3, bits w2 8 2 = bb → bits w2 0 2 = de → jumpAddress w2 w3 = address → decodeJump w2 w3 = i) :
    DecodesTo dbl (encodeJump bb address de) i := by
  intro rest
  rw [← h _ _ (jumpBb_encode bb address de) (jumpDe_encode bb address de) (jumpAddress_encode bb address de)]
  exact decode_jumpWord dbl _ _

/-- The shifts: F2 is N over RR (R117). -/
theorem decodesTo_shift {r : Reg} (hr : r.isLow = true) {n : Count} {bla : BitVec 3} {i : Instr}
    (h : ∀ w, bits w 3 3 = bla → Reg.ofLowBits (bits w 0 2) = r → Count.ofBit (w.getLsbD 2) = n →
      decodeShift w = i) : DecodesTo dbl (encodeShift bla r n) i := by
  intro rest
  rw [encodeShift, List.headD_cons, decode, bits_firstWord_operation]
  refine h _ (bits_firstWord_f1 ..) ?_ ?_
  · rw [bits_firstWord_low, BitVec.extractLsb'_append_eq_of_add_le (by decide), BitVec.extractLsb'_eq_self,
      ofLowBits_num hr]
  · rw [getLsbD_firstWord_f2 _ _ _ (by decide), BitVec.getLsbD_append]
    cases n <;> rfl

/-- The branches: direction, external bit and condition (R115). -/
theorem decodesTo_branch {dir : Dir} {x : BitVec 1} {condition : BitVec 4} {disp : Word} {i : Instr}
    (h : ∀ w : Word, Dir.ofBit (w.getLsbD 5) = dir → w.getLsbD 4 = x.getLsbD 0 → bits w 0 4 = condition →
      decodeBranch w disp = i) : DecodesTo dbl (encodeBranch dir x condition disp) i := by
  intro rest
  rw [encodeBranch, List.headD_cons, decode, bits_branchWord_operation]
  refine h _ ?_ ?_ ?_
  · simp only [BitVec.getLsbD_append]
    cases dir <;> rfl
  · simp only [BitVec.getLsbD_append]
    rfl
  · rw [bits, BitVec.extractLsb'_append_eq_of_add_le (by decide), BitVec.extractLsb'_eq_self]

/-- A mode that names a pointer is neither the direct nor the immediate one (R114). -/
theorem decodeMoveOut_pointer {w : Word} {m : Reg} (hm : m.isPointer = true) (hmode : bits w 3 3 = m.num) (w2 : Word) :
    decodeMoveOut w w2 = .mvoAt (Reg.ofBits (bits w 0 3)) m := by
  rw [decodeMoveOut, hmode]
  cases m <;> first | rfl | cases hm

theorem decodeInput_pointer {w : Word} {m : Reg} (hm : m.isPointer = true) (hmode : bits w 3 3 = m.num)
    (direct imm : Word → Reg → Instr) (indirect : Reg → Reg → Instr) (w2 w3 : Word) :
    decodeInput direct imm indirect dbl w w2 w3 = indirect m (Reg.ofBits (bits w 0 3)) := by
  rw [decodeInput, hmode]
  cases m <;> first | rfl | cases hm

/-- The data words of an immediate input give the value back, and none is left (R122). -/
theorem immediate_encodeImmediate (v : Word) (rest : List Word) :
    immediate dbl ((encodeImmediate dbl v ++ rest).getD 0 0) ((encodeImmediate dbl v ++ rest).getD 1 0) = v := by
  cases dbl with
  | false => rfl
  | true => exact immediate_encode v

end

/-- The decoder answers the core instruction, format by format. -/
theorem decodesTo_encode (dbl : Bool) {i : Instr} (h : i.WellFormed) : DecodesTo dbl (encode dbl i) i.canonical := by
  cases i with
  | hlt | sdbd | eis | dis | tci | clrc | setc =>
    refine decodesTo_firstWord dbl fun w _ hop hf1 hf2 => ?_
    simp only [decode, decodeSingle, hop, hf1, hf2]
    rfl
  | incr _ | decr _ | comr _ | negr _ | adcr _ | rswd _ =>
    refine decodesTo_firstWord dbl fun w _ hop hf1 hf2 => ?_
    simp only [decode, decodeSingle, hop, hf1, hf2, ofBits_num]
    rfl
  | gswd d => exact decodesTo_gswd dbl h
  | nop n => exact decodesTo_nop dbl n
  | sin n => exact decodesTo_sin dbl n
  | j _ | je _ | jd _ | undefJumpDe11 _ _ =>
    refine decodesTo_jump dbl fun w2 w3 hbb hde haddress => ?_
    simp only [decodeJump, hbb, hde, haddress]
    rfl
  | jsr link _ | jsre link _ | jsrd link _ =>
    obtain ⟨hne, hlink⟩ := ofLinkBits_linkBits (link := link) h
    refine decodesTo_jump dbl fun w2 w3 hbb hde haddress => ?_
    simp only [decodeJump, hbb, hde, haddress, hlink, if_neg hne]
    rfl
  | swap _ _ | sll _ _ | rlc _ _ | sllc _ _ | slr _ _ | sar _ _ | rrc _ _ | sarc _ _ =>
    refine decodesTo_shift dbl h fun w hbla hr hn => ?_
    simp only [decodeShift, hbla, hr, hn]
    rfl
  | movr _ _ | addr _ _ | subr _ _ | cmpr _ _ | andr _ _ | xorr _ _ | tstr _ | jr _ | clrr _ =>
    refine decodesTo_firstWord dbl fun w _ hop hf1 hf2 => ?_
    simp only [decode, hop, hf1, hf2, ofBits_num]
    rfl
  | b dir _ | bc dir _ | bov dir _ | bpl dir _ | bze dir _ | blt dir _ | ble dir _ | busc dir _ | nopp dir _
  | bnc dir _ | bnov dir _ | bmi dir _ | bnze dir _ | bge dir _ | bgt dir _ | besc dir _ | bext dir _ _
  | blgt dir _ | bllt dir _ | beq dir _ | bneq dir _ =>
    refine decodesTo_branch dbl fun w hdir hx hcondition => ?_
    simp only [decodeBranch, hdir, hx, hcondition]
    rfl
  | mvo _ _ | mvoi _ =>
    refine decodesTo_firstWord dbl fun w _ hop hf1 hf2 => ?_
    simp only [decode, decodeMoveOut, hop, hf1, hf2, ofBits_num]
    rfl
  | mvi _ _ | add _ _ | sub _ _ | cmp _ _ | and _ _ | xor _ _ =>
    refine decodesTo_firstWord dbl fun w _ hop hf1 hf2 => ?_
    simp only [decode, decodeInput, hop, hf1, hf2, ofBits_num]
    rfl
  | mvii _ _ | addi _ _ | subi _ _ | cmpi _ _ | andi _ _ | xori _ _ =>
    refine decodesTo_firstWord dbl fun w _ hop hf1 hf2 => ?_
    simp only [decode, decodeInput, hop, hf1, hf2, ofBits_num, immediate_encodeImmediate]
    rfl
  | mvoAt _ _ =>
    refine decodesTo_firstWord dbl fun w _ hop hf1 hf2 => ?_
    simp only [decode, decodeMoveOut_pointer h hf1, hop, hf2, ofBits_num]
    rfl
  | pshr _ =>
    refine decodesTo_firstWord dbl fun w _ hop hf1 hf2 => ?_
    simp only [decode, decodeMoveOut_pointer rfl hf1, hop, hf2, ofBits_num]
    rfl
  | mviAt _ _ | addAt _ _ | subAt _ _ | cmpAt _ _ | andAt _ _ | xorAt _ _ =>
    refine decodesTo_firstWord dbl fun w _ hop hf1 hf2 => ?_
    simp only [decode, decodeInput_pointer dbl h hf1, hop, hf2, ofBits_num]
    rfl
  | pulr _ =>
    refine decodesTo_firstWord dbl fun w _ hop hf1 hf2 => ?_
    simp only [decode, decodeInput_pointer dbl (m := .r6) rfl hf1, hop, hf2, ofBits_num]
    rfl

/-- Settles O4: the words have the length their first word says, and each format's fields are read back. -/
theorem encodeDecodeRoundTrip : Obligations.EncodeDecodeRoundTrip := by
  unfold Obligations.EncodeDecodeRoundTrip
  intro dbl _ rest h
  exact decodeWords_append (hasLength_encode dbl h) (decodesTo_encode dbl h) rest

/-! What the decoder answers -/

/-- How many words the fetch of an instruction reads: MVOI passes over its second word without reading it (R121,
R166). -/
def fetchedWords (dbl : Bool) : Instr → Nat
  | .j _ | .je _ | .jd _ | .jsr _ _ | .jsre _ _ | .jsrd _ _ | .undefJumpDe11 _ _ => 3
  | .b _ _ | .bc _ _ | .bov _ _ | .bpl _ _ | .bze _ _ | .blt _ _ | .ble _ _ | .busc _ _ => 2
  | .nopp _ _ | .bnc _ _ | .bnov _ _ | .bmi _ _ | .bnze _ _ | .bge _ _ | .bgt _ _ | .besc _ _ => 2
  | .bext _ _ _ | .blgt _ _ | .bllt _ _ | .beq _ _ | .bneq _ _ => 2
  | .mvo _ _ | .mvi _ _ | .add _ _ | .sub _ _ | .cmp _ _ | .and _ _ | .xor _ _ => 2
  | .mvii _ _ | .addi _ _ | .subi _ _ | .cmpi _ _ | .andi _ _ | .xori _ _ => 2 + dbl.toNat
  | _ => 1

/-- An instruction that has an encoding and is no second name, is fetched in `n` words, and has its second word as a
direct address exactly if `direct`. -/
structure HasForm (dbl : Bool) (n : Nat) (direct : Bool) (i : Instr) : Prop where
  wellFormed : i.WellFormed
  core : i.canonical = i
  words : fetchedWords dbl i = n
  addressed : Claims.isDirect i = direct

theorem isLow_ofLowBits (b : BitVec 2) : (Reg.ofLowBits b).isLow = true := by
  revert b
  decide

theorem isLink_ofLinkBits : ∀ b : BitVec 2, b ≠ 3 → (Reg.ofLinkBits b).isLink = true := by decide

theorem isPointer_ofBits : ∀ b : BitVec 3, b.toNat ≠ 0 → b.toNat ≠ 7 → (Reg.ofBits b).isPointer = true := by decide

section
variable (dbl : Bool)

/-- BB = 11 is a jump without a link register; any other BB names one (R120). -/
theorem decodeJump_hasForm (w2 w3 : Word) : HasForm dbl 3 false (decodeJump w2 w3) := by
  by_cases hbb : bits w2 8 2 = 3
  · simp only [decodeJump, if_pos hbb]
    split
    all_goals exact ⟨rfl, rfl, rfl, rfl⟩
  · have hlink := isLink_ofLinkBits _ hbb
    simp only [decodeJump, if_neg hbb]
    split
    case h_4 => exact ⟨rfl, rfl, rfl, rfl⟩
    all_goals exact ⟨hlink, rfl, rfl, rfl⟩

theorem decodeControl_hasForm (f2 : BitVec 3) (w2 w3 : Word) :
    HasForm dbl (if f2.toNat = 4 then 3 else 1) false (decodeControl f2 w2 w3) := by
  by_cases hjump : f2.toNat = 4
  · rw [if_pos hjump, decodeControl, hjump]
    exact decodeJump_hasForm dbl w2 w3
  · rw [if_neg hjump, decodeControl]
    split
    case h_5 => contradiction
    all_goals exact ⟨rfl, rfl, rfl, rfl⟩

theorem decodeStatusRead_hasForm (w1 : Word) : HasForm dbl 1 false (decodeStatusRead w1) := by
  unfold decodeStatusRead
  repeat' split
  · exact ⟨rfl, rfl, rfl, rfl⟩
  · exact ⟨rfl, rfl, rfl, rfl⟩
  · exact ⟨isLow_ofLowBits _, rfl, rfl, rfl⟩

theorem decodeSingle_hasForm (w1 w2 w3 : Word) :
    HasForm dbl (if (bits w1 3 3).toNat = 0 ∧ (bits w1 0 3).toNat = 4 then 3 else 1) false
      (decodeSingle w1 w2 w3) := by
  by_cases hcontrol : (bits w1 3 3).toNat = 0
  · simp only [decodeSingle, hcontrol, true_and]
    exact decodeControl_hasForm dbl _ w2 w3
  · rw [if_neg fun h => hcontrol h.1, decodeSingle]
    split
    case h_1 => contradiction
    case h_7 => exact decodeStatusRead_hasForm dbl w1
    all_goals exact ⟨rfl, rfl, rfl, rfl⟩

theorem decodeShift_hasForm (w1 : Word) : HasForm dbl 1 false (decodeShift w1) := by
  unfold decodeShift
  split
  all_goals exact ⟨isLow_ofLowBits _, rfl, rfl, rfl⟩

theorem decodeBranch_hasForm (w1 w2 : Word) : HasForm dbl 2 false (decodeBranch w1 w2) := by
  unfold decodeBranch
  split
  · exact ⟨rfl, rfl, rfl, rfl⟩
  · split
    all_goals exact ⟨rfl, rfl, rfl, rfl⟩

theorem decodeMoveOut_hasForm (w1 w2 : Word) :
    HasForm dbl (if (bits w1 3 3).toNat = 0 then 2 else 1) (decide ((bits w1 3 3).toNat = 0)) (decodeMoveOut w1 w2) := by
  by_cases hdirect : (bits w1 3 3).toNat = 0
  · simp only [decodeMoveOut, hdirect]
    exact ⟨rfl, rfl, rfl, rfl⟩
  · rw [if_neg hdirect, decide_eq_false hdirect, decodeMoveOut]
    split
    case h_1 => contradiction
    case h_2 => exact ⟨rfl, rfl, rfl, rfl⟩
    case h_3 himmediate => exact ⟨isPointer_ofBits _ hdirect himmediate, rfl, rfl, rfl⟩

/-- An input operation has the form of the constructor its mode selects. -/
theorem decodeInput_hasForm {direct imm : Word → Reg → Instr} {indirect : Reg → Reg → Instr}
    (hdirect : ∀ a r, HasForm dbl 2 true (direct a r)) (himm : ∀ v r, HasForm dbl (2 + dbl.toNat) false (imm v r))
    (hindirect : ∀ m r, m.isPointer = true → HasForm dbl 1 false (indirect m r)) (w1 w2 w3 : Word) :
    HasForm dbl (if (bits w1 3 3).toNat = 0 then 2 else if (bits w1 3 3).toNat = 7 then 2 + dbl.toNat else 1)
      (decide ((bits w1 3 3).toNat = 0)) (decodeInput direct imm indirect dbl w1 w2 w3) := by
  by_cases h0 : (bits w1 3 3).toNat = 0
  · simp only [decodeInput, h0]
    exact hdirect _ _
  · rw [if_neg h0, decide_eq_false h0]
    by_cases h7 : (bits w1 3 3).toNat = 7
    · simp only [decodeInput, h7]
      exact himm _ _
    · rw [if_neg h7, decodeInput]
      split
      case h_1 => contradiction
      case h_2 => contradiction
      case h_3 => exact hindirect _ _ (isPointer_ofBits _ h0 h7)

/-- What the decoder answers to any words has the form that the first word announces (R121, R123). -/
theorem decode_hasForm (w1 w2 w3 : Word) :
    HasForm dbl (fetchLength dbl w1) (directMode w1) (decode dbl w1 w2 w3) := by
  have hlt := (bits w1 6 4).isLt
  have hmoveOut := decodeMoveOut_hasForm dbl w1 w2
  rw [fetchLength_eq, instructionLength_eq, directMode_eq, decode]
  generalize (bits w1 6 4).toNat = op at hlt ⊢
  interval_cases op
  · simpa using decodeSingle_hasForm dbl w1 w2 w3
  · simpa using decodeShift_hasForm dbl w1
  iterate 6 exact ⟨rfl, rfl, rfl, rfl⟩
  · simpa using decodeBranch_hasForm dbl w1 w2
  · by_cases himmediate : (bits w1 3 3).toNat = 7 <;> simpa [himmediate] using hmoveOut
  all_goals
    simp only [Nat.reduceEqDiff, false_and, if_false, Nat.reduceLT, Nat.reduceLeDiff, true_and]
    refine decodeInput_hasForm dbl ?_ ?_ ?_ w1 w2 w3
    · exact fun _ _ => ⟨rfl, rfl, rfl, rfl⟩
    · exact fun _ _ => ⟨rfl, rfl, rfl, rfl⟩
    · exact fun _ _ hm => ⟨hm, rfl, rfl, rfl⟩

end

/-- Settles O5: the form that the decoder's answer has is that of a well-formed core instruction. -/
theorem decodeAnswersWellFormedCore : Obligations.DecodeAnswersWellFormedCore := by
  unfold Obligations.DecodeAnswersWellFormedCore
  intro dbl w1 w2 w3
  have h := decode_hasForm dbl w1 w2 w3
  exact ⟨h.wellFormed, h.core⟩

/-- Settles O8: the words are closed, so the decoder computes. -/
theorem specWordsDecode : Obligations.SpecWordsDecode := by
  unfold Obligations.SpecWordsDecode
  and_intros
  all_goals rfl

end Sys2Proof
end

section
/-! PROOFS. The adder (spec/10_state.md R41, R42): the sums and differences of register to register and of single
register instructions, and what the branches tell after a compare. -/

namespace Sys2Proof.Machine

open Sys2Proof.Claims

/-! The adder's result with its status bits -/

/-- `r` is zero exactly if the comparison says so, and S is its sign (R41). -/
theorem signZero_ofSum (t : Sum17) : SignZero t.sum (.ofSum t) := ⟨msb_eq_neg t.sum, rfl⟩

theorem sumOf_add17 (a b : Word) (cin : Bool) : SumOf a b cin (add17 a b cin).sum (.ofSum (add17 a b cin)) where
  value := by
    rw [add17_sum]
    cases cin <;> simp [BitVec.toNat_add]
  carry := add17_cout a b cin
  overflow := add17_ovf a b cin
  signZero := signZero_ofSum _

theorem differenceOf_sub17 (a b : Word) : DifferenceOf a b (a - b) (.ofSum (sub17 a b)) where
  value := by
    rw [BitVec.toNat_sub]
    omega
  carry := sub17_cout a b
  overflow := sub17_ovf a b
  signZero := by
    rw [← sub17_sum]
    exact signZero_ofSum _

/-! A sum in a register, with all four status bits -/

section
variable (s : State) (d : Reg) (v : Word)

@[simp] theorem State.reg_setSum_same (t : Sum17) : (s.setSum d t).reg d = t.sum := State.reg_setReg_same ..

theorem onlyRegsStatus_setSum (t : Sum17) : OnlyRegsStatus [d] s (s.setSum d t) where
  regs _ hr := State.reg_setReg_other _ _ _ _ (List.ne_of_not_mem_cons hr)
  rest := rfl

theorem onlyRegsStatus_setStatus (f : Status) : OnlyRegsStatus [] s (s.setStatus f) where
  regs _ _ := rfl
  rest := rfl

/-- An addition into a register (R171, R232). -/
theorem sumOf_addTo : SumOf (s.reg d) v false ((State.addTo d v s).reg d) (State.addTo d v s).status := by
  rw [State.addTo, State.reg_setSum_same]
  exact sumOf_add17 _ _ _

/-- A subtraction from a register (R172, R233). -/
theorem differenceOf_subFrom : DifferenceOf (s.reg d) v ((State.subFrom d v s).reg d) (State.subFrom d v s).status := by
  rw [State.subFrom, State.reg_setSum_same, sub17_sum]
  exact differenceOf_sub17 _ _

/-- A compare with a register (R173, R234). -/
theorem differenceOf_compareWith : DifferenceOf (s.reg d) v (s.reg d - v) (State.compareWith d v s).status :=
  differenceOf_sub17 _ _

end

/-! What each instruction does -/

section
variable {s : State} (h : s.dbl = false) (src d : Reg)
include h

theorem exec_addr : exec (.addr src d) s = .next (s.addTo d (s.reg src)) := by
  show execAddr src d s = _
  exact State.unlessDbl_next.mpr ⟨h, rfl⟩

theorem exec_subr : exec (.subr src d) s = .next (s.subFrom d (s.reg src)) := by
  show execSubr src d s = _
  exact State.unlessDbl_next.mpr ⟨h, rfl⟩

theorem exec_cmpr : exec (.cmpr src d) s = .next (s.compareWith d (s.reg src)) := by
  show execCmpr src d s = _
  exact State.unlessDbl_next.mpr ⟨h, rfl⟩

theorem exec_negr : exec (.negr d) s = .next (s.setSum d (sub17 0 (s.reg d))) := by
  show execNegr d s = _
  exact State.unlessDbl_next.mpr ⟨h, rfl⟩

theorem exec_adcr : exec (.adcr d) s = .next (s.setSum d (add17 (s.reg d) 0 s.status.c)) := by
  show execAdcr d s = _
  exact State.unlessDbl_next.mpr ⟨h, rfl⟩

end

/-- Settles O25: the adder with carry-in 0. -/
theorem addRegisters : Obligations.AddRegisters := by
  unfold Obligations.AddRegisters
  exact fun src d s h => ⟨_, exec_addr h src d, sumOf_addTo s d _, onlyRegsStatus_setSum s d _⟩

/-- Settles O26: one difference, whose result SUBR writes and CMPR does not. -/
theorem subtractAndCompareRegisters : Obligations.SubtractAndCompareRegisters := by
  unfold Obligations.SubtractAndCompareRegisters
  exact fun src d s h => ⟨⟨_, exec_subr h src d, differenceOf_subFrom s d _, onlyRegsStatus_setSum s d _⟩,
    ⟨_, exec_cmpr h src d, differenceOf_compareWith s d _, onlyRegsStatus_setStatus s _⟩⟩

/-- Settles O19: the difference from 0, and the sum with 0 and the carry. -/
theorem negateAndAddCarry : Obligations.NegateAndAddCarry := by
  unfold Obligations.NegateAndAddCarry
  refine fun d s h => ⟨⟨_, exec_negr h d, ?negr, onlyRegsStatus_setSum s d _⟩,
    ⟨_, exec_adcr h d, ?adcr, onlyRegsStatus_setSum s d _⟩⟩
  all_goals rw [State.reg_setSum_same]
  case negr =>
    rw [sub17_sum]
    exact differenceOf_sub17 _ _
  case adcr => exact sumOf_add17 _ _ _

/-! Branches after a compare (spec/41_branches.md section 1) -/

section
variable {a b r : Word} {f : Status} (h : DifferenceOf a b r f)
include h

/-- The difference is 0 exactly if the operands are equal. -/
theorem difference_z_eq : f.z = decide (a = b) := by
  have hr := h.value
  have ha := a.isLt
  have hb := b.isLt
  have hzero : (0 : Word).toNat = 0 := rfl
  rw [h.signZero.zero, decide_eq_decide, ← BitVec.toNat_inj, ← BitVec.toNat_inj, hr, hzero]
  omega

/-- S differs from OV exactly if the exact difference is negative (R206). -/
theorem difference_less_eq : f.less = decide (a.toInt < b.toInt) := by
  have hr := h.value
  have ha := a.isLt
  have hb := b.isLt
  rw [Status.less, h.signZero.sign, h.overflow, Bool.eq_iff_iff, decide_eq_true_eq, Bool.xor_iff_ne, ne_eq,
    decide_eq_decide]
  simp only [BitVec.toInt_eq_toNat_cond, hr]
  split <;> split <;> split <;> omega

theorem difference_lessOrEqual_eq : f.lessOrEqual = decide (a.toInt ≤ b.toInt) := by
  have hless := difference_less_eq h
  have heq : a = b ↔ a.toInt = b.toInt := BitVec.toInt_inj.symm
  rw [Status.less] at hless
  rw [Status.lessOrEqual, hless, difference_z_eq h, Bool.eq_iff_iff]
  simp only [Bool.or_eq_true, decide_eq_true_eq, heq]
  omega

end

/-- A branch on a condition whose value is known. -/
theorem BranchesOn.exec_of_eq {instr : Dir → Word → Instr} {taken : Status → Bool} (h : BranchesOn instr taken)
    {s : State} (hdbl : s.dbl = false) {p : Bool} (hp : taken s.status = p) (dir : Dir) (disp : Word) :
    exec (instr dir disp) s = .next (afterBranch p dir disp s) := by
  rw [h.exec_next dir disp hdbl, hp]

/-- Settles O27: the eight conditions as comparisons of the operands of the difference. -/
theorem compareThenBranch : Obligations.CompareThenBranch := by
  unfold Obligations.CompareThenBranch
  intro src d s t pc disp dir ht u a b
  obtain ⟨hs, rfl⟩ := State.unlessDbl_next.mp ht
  have hu : u.dbl = false := hs
  have hdiff : DifferenceOf a b (a - b) u.status := differenceOf_compareWith s d _
  have hc : u.status.c = decide (b.toNat ≤ a.toNat) := hdiff.carry
  have hz := difference_z_eq hdiff
  have hless := difference_less_eq hdiff
  have hle := difference_lessOrEqual_eq hdiff
  clear_value u a b
  refine ⟨BranchesOn.exec_of_eq (taken := (·.c)) (fun _ _ _ => ⟨rfl, rfl⟩) hu hc dir disp,
    BranchesOn.exec_of_eq (taken := (! ·.c)) (fun _ _ _ => ⟨rfl, rfl⟩) hu ?bnc dir disp,
    BranchesOn.exec_of_eq (taken := Status.less) (fun _ _ _ => ⟨rfl, rfl⟩) hu hless dir disp,
    BranchesOn.exec_of_eq (taken := (! ·.less)) (fun _ _ _ => ⟨rfl, rfl⟩) hu ?bge dir disp,
    BranchesOn.exec_of_eq (taken := Status.lessOrEqual) (fun _ _ _ => ⟨rfl, rfl⟩) hu hle dir disp,
    BranchesOn.exec_of_eq (taken := (! ·.lessOrEqual)) (fun _ _ _ => ⟨rfl, rfl⟩) hu ?bgt dir disp,
    BranchesOn.exec_of_eq (taken := (·.z)) (fun _ _ _ => ⟨rfl, rfl⟩) hu hz dir disp,
    BranchesOn.exec_of_eq (taken := (! ·.z)) (fun _ _ _ => ⟨rfl, rfl⟩) hu ?bnze dir disp⟩
  case bnc => rw [hc, ← decide_not, decide_eq_decide, not_le]
  case bge => rw [hless, ← decide_not, decide_eq_decide, not_lt]
  case bgt => rw [hle, ← decide_not, decide_eq_decide, not_le]
  case bnze => rw [hz, ← decide_not]

end Sys2Proof.Machine
end

section
/-! PROOFS. The shifts (spec/43_register_shift.md): a result with its link bits as arithmetic on the register (R252 to
R259), and what a shift writes (R251). -/

namespace Sys2Proof.Machine

open Sys2Proof.Claims

/-! Bits and fields as arithmetic -/

/-- Concatenation is positional. -/
theorem toNat_append_eq {n m : Nat} (x : BitVec n) (y : BitVec m) : (x ++ y).toNat = x.toNat * 2 ^ m + y.toNat := by
  rw [BitVec.toNat_append, ← Nat.shiftLeft_add_eq_or_of_lt y.isLt, Nat.shiftLeft_eq]

theorem toNat_extract (v : Word) (lo len : Nat) : (v.extractLsb' lo len).toNat = v.toNat / 2 ^ lo % 2 ^ len :=
  toNat_bits v lo len

/-- A bit as a number. -/
theorem toNat_getLsbD (v : Word) (k : Nat) : (v.getLsbD k).toNat = v.toNat / 2 ^ k % 2 := by
  rw [BitVec.getLsbD, Nat.toNat_testBit]

theorem toNat_shiftLeft_eq (v : Word) (k : Nat) : (v <<< k).toNat = v.toNat * 2 ^ k % 65536 := by
  rw [BitVec.toNat_shiftLeft, Nat.shiftLeft_eq]

theorem toNat_shiftRight_eq (v : Word) (k : Nat) : (v >>> k).toNat = v.toNat / 2 ^ k := by
  rw [BitVec.toNat_ushiftRight, Nat.shiftRight_eq_div_pow]

theorem toInt_sshiftRight_eq (v : Word) (k : Nat) : (v.sshiftRight k).toInt = v.toInt / 2 ^ k := by
  rw [BitVec.toInt_sshiftRight, Int.shiftRight_eq_div_pow]
  norm_cast

/-! What a shift writes -/

section
variable (s : State) (r : Reg) (v : Word) (sign c ov : Bool)

@[simp] theorem State.reg_setShift_same : (s.setShift r v sign c ov).reg r = v := State.reg_setReg_same ..

@[simp] theorem State.status_setShift : (s.setShift r v sign c ov).status = ⟨sign, v == 0, c, ov⟩ := rfl

theorem onlyRegsStatus_setShift : OnlyRegsStatus [r] s (s.setShift r v sign c ov) where
  regs _ hr := State.reg_setReg_other _ _ _ _ (List.ne_of_not_mem_cons hr)
  rest := rfl

/-- S and Z of a left shift are those of its result (R251). -/
theorem signZero_setShift : SignZero ((s.setShift r v v.msb c ov).reg r) (s.setShift r v v.msb c ov).status := by
  rw [State.reg_setShift_same]
  exact ⟨msb_eq_neg v, rfl⟩

/-- The bit that RSHIFT_S_BIT names (R251). -/
theorem ShiftSBit.of_eq (b : ShiftSBit) : b.of v = v.getLsbD (if b = .bit7 then 7 else 15) := by
  cases b <;> rfl

end

/-! What each instruction does -/

section
variable {s : State} (h : s.dbl = false) (r : Reg)
include h

theorem exec_sll_one : exec (.sll r .one) s =
    .next (s.setShift r (s.reg r <<< 1) (s.reg r <<< 1).msb s.status.c s.status.ov) := by
  show execSll r .one s = _
  exact State.unlessDbl_next.mpr ⟨h, rfl⟩

theorem exec_sll_two : exec (.sll r .two) s =
    .next (s.setShift r (s.reg r <<< 2) (s.reg r <<< 2).msb s.status.c s.status.ov) := by
  show execSll r .two s = _
  exact State.unlessDbl_next.mpr ⟨h, rfl⟩

theorem exec_sllc_one : exec (.sllc r .one) s =
    .next (s.setShift r (s.reg r <<< 1) (s.reg r <<< 1).msb ((s.reg r).getLsbD 15) s.status.ov) := by
  show execSllc r .one s = _
  exact State.unlessDbl_next.mpr ⟨h, rfl⟩

theorem exec_sllc_two : exec (.sllc r .two) s =
    .next (s.setShift r (s.reg r <<< 2) (s.reg r <<< 2).msb ((s.reg r).getLsbD 15) ((s.reg r).getLsbD 14)) := by
  show execSllc r .two s = _
  exact State.unlessDbl_next.mpr ⟨h, rfl⟩

theorem exec_rlc_one : ∃ w : Word, w = (s.reg r).extractLsb' 0 15 ++ BitVec.ofBool s.status.c ∧
    exec (.rlc r .one) s = .next (s.setShift r w w.msb ((s.reg r).getLsbD 15) s.status.ov) := by
  refine ⟨_, rfl, ?_⟩
  show execRlc r .one s = _
  exact State.unlessDbl_next.mpr ⟨h, rfl⟩

theorem exec_rlc_two :
    ∃ w : Word, w = (s.reg r).extractLsb' 0 14 ++ BitVec.ofBool s.status.c ++ BitVec.ofBool s.status.ov ∧
      exec (.rlc r .two) s = .next (s.setShift r w w.msb ((s.reg r).getLsbD 15) ((s.reg r).getLsbD 14)) := by
  refine ⟨_, rfl, ?_⟩
  show execRlc r .two s = _
  exact State.unlessDbl_next.mpr ⟨h, rfl⟩

end

/-- Settles O28: what leaves the register and what stays are the digits of the doubled or quadrupled value. -/
theorem leftShifts : Obligations.LeftShifts := by
  unfold Obligations.LeftShifts
  intro r s h
  have hv := (s.reg r).isLt
  have hframe (w : Word) (sign c ov : Bool) := onlyRegsStatus_setShift s r w sign c ov
  have hsz (w : Word) (c ov : Bool) := signZero_setShift s r w c ov
  obtain ⟨w1, hw1, hrlc1⟩ := exec_rlc_one h r
  obtain ⟨w2, hw2, hrlc2⟩ := exec_rlc_two h r
  refine ⟨⟨_, exec_sll_one h r, ?sll1, ⟨hsz _ _ _, rfl, rfl⟩, hframe ..⟩,
    ⟨_, exec_sll_two h r, ?sll2, ⟨hsz _ _ _, rfl, rfl⟩, hframe ..⟩,
    ⟨_, exec_sllc_one h r, ?sllc1, rfl, hsz _ _ _, hframe ..⟩,
    ⟨_, exec_sllc_two h r, ?sllc2, hsz _ _ _, hframe ..⟩,
    ⟨_, hrlc1, ?rlc1, rfl, hsz _ _ _, hframe ..⟩, ⟨_, hrlc2, ?rlc2, hsz _ _ _, hframe ..⟩⟩
  all_goals
    simp only [State.reg_setShift_same, State.status_setShift, hw1, hw2, toNat_shiftLeft_eq, toNat_getLsbD,
      toNat_append_eq, toNat_extract, BitVec.toNat_ofBool]
    omega

/-- The result `w` of a right shift or SWAP of `r` in `s`, with C and OV: S is the bit RSHIFT_S_BIT names (R251). -/
def State.setRightShift (s : State) (r : Reg) (w : Word) (c ov : Bool) : State :=
  s.setShift r w (s.plat.shiftSBit.of w) c ov

section
variable (s : State) (r : Reg) (w : Word) (c ov : Bool)

@[simp] theorem State.reg_setRightShift_same : (s.setRightShift r w c ov).reg r = w := State.reg_setShift_same ..

@[simp] theorem State.status_setRightShift :
    (s.setRightShift r w c ov).status = ⟨s.plat.shiftSBit.of w, w == 0, c, ov⟩ := rfl

/-- S, Z and the frame of a right shift. -/
theorem setRightShift_frame :
    (s.setRightShift r w c ov).status.s =
      ((s.setRightShift r w c ov).reg r).getLsbD (if s.plat.shiftSBit = .bit7 then 7 else 15) ∧
    (s.setRightShift r w c ov).status.z = decide ((s.setRightShift r w c ov).reg r = 0) ∧
    OnlyRegsStatus [r] s (s.setRightShift r w c ov) := by
  rw [State.reg_setRightShift_same]
  exact ⟨ShiftSBit.of_eq w _, rfl, onlyRegsStatus_setShift ..⟩

end

section
variable {s : State} (h : s.dbl = false) (r : Reg)
include h

theorem exec_slr_one : exec (.slr r .one) s = .next (s.setRightShift r (s.reg r >>> 1) s.status.c s.status.ov) := by
  show execSlr r .one s = _
  exact State.unlessDbl_next.mpr ⟨h, rfl⟩

theorem exec_slr_two : exec (.slr r .two) s = .next (s.setRightShift r (s.reg r >>> 2) s.status.c s.status.ov) := by
  show execSlr r .two s = _
  exact State.unlessDbl_next.mpr ⟨h, rfl⟩

theorem exec_sar_one :
    exec (.sar r .one) s = .next (s.setRightShift r ((s.reg r).sshiftRight 1) s.status.c s.status.ov) := by
  show execSar r .one s = _
  exact State.unlessDbl_next.mpr ⟨h, rfl⟩

theorem exec_sar_two :
    exec (.sar r .two) s = .next (s.setRightShift r ((s.reg r).sshiftRight 2) s.status.c s.status.ov) := by
  show execSar r .two s = _
  exact State.unlessDbl_next.mpr ⟨h, rfl⟩

theorem exec_sarc_one :
    exec (.sarc r .one) s =
      .next (s.setRightShift r ((s.reg r).sshiftRight 1) ((s.reg r).getLsbD 0) s.status.ov) := by
  show execSarc r .one s = _
  exact State.unlessDbl_next.mpr ⟨h, rfl⟩

theorem exec_sarc_two :
    exec (.sarc r .two) s =
      .next (s.setRightShift r ((s.reg r).sshiftRight 2) ((s.reg r).getLsbD 0) ((s.reg r).getLsbD 1)) := by
  show execSarc r .two s = _
  exact State.unlessDbl_next.mpr ⟨h, rfl⟩

theorem exec_rrc_one : ∃ w : Word, w = BitVec.ofBool s.status.c ++ (s.reg r).extractLsb' 1 15 ∧
    exec (.rrc r .one) s = .next (s.setRightShift r w ((s.reg r).getLsbD 0) s.status.ov) := by
  refine ⟨_, rfl, ?_⟩
  show execRrc r .one s = _
  exact State.unlessDbl_next.mpr ⟨h, rfl⟩

theorem exec_rrc_two :
    ∃ w : Word, w = BitVec.ofBool s.status.ov ++ BitVec.ofBool s.status.c ++ (s.reg r).extractLsb' 2 14 ∧
      exec (.rrc r .two) s = .next (s.setRightShift r w ((s.reg r).getLsbD 0) ((s.reg r).getLsbD 1)) := by
  refine ⟨_, rfl, ?_⟩
  show execRrc r .two s = _
  exact State.unlessDbl_next.mpr ⟨h, rfl⟩

theorem exec_swap_one : ∃ w : Word, w = (s.reg r).extractLsb' 0 8 ++ (s.reg r).extractLsb' 8 8 ∧
    exec (.swap r .one) s = .next (s.setRightShift r w s.status.c s.status.ov) := by
  refine ⟨_, rfl, ?_⟩
  show execSwap r .one s = _
  exact State.unlessDbl_next.mpr ⟨h, rfl⟩

theorem exec_swap_two : ∃ w : Word, w = (s.reg r).extractLsb' 0 8 ++ (s.reg r).extractLsb' 0 8 ∧
    exec (.swap r .two) s = .next (s.setRightShift r w s.status.c s.status.ov) := by
  refine ⟨_, rfl, ?_⟩
  show execSwap r .two s = _
  exact State.unlessDbl_next.mpr ⟨h, rfl⟩

end

/-- Settles O29: each result is a quotient or a concatenation, each link bit a digit of the register. -/
theorem rightShiftsAndSwap : Obligations.RightShiftsAndSwap := by
  unfold Obligations.RightShiftsAndSwap
  intro r s h v sz keepsLink
  have hv := (s.reg r).isLt
  have hsz (w : Word) (c ov : Bool) : sz (s.setRightShift r w c ov) := setRightShift_frame s r w c ov
  have hkeeps (w : Word) : keepsLink (s.setRightShift r w s.status.c s.status.ov) := ⟨rfl, rfl⟩
  obtain ⟨w1, hw1, hrrc1⟩ := exec_rrc_one h r
  obtain ⟨w2, hw2, hrrc2⟩ := exec_rrc_two h r
  obtain ⟨w3, hw3, hswap1⟩ := exec_swap_one h r
  obtain ⟨w4, hw4, hswap2⟩ := exec_swap_two h r
  refine ⟨⟨_, exec_slr_one h r, ?slr1, hkeeps _, hsz ..⟩, ⟨_, exec_slr_two h r, ?slr2, hkeeps _, hsz ..⟩,
    ⟨_, exec_sar_one h r, ?sar1, hkeeps _, hsz ..⟩, ⟨_, exec_sar_two h r, ?sar2, hkeeps _, hsz ..⟩,
    ⟨_, exec_sarc_one h r, ?sarc1, ?sarcLink1, rfl, hsz ..⟩, ⟨_, exec_sarc_two h r, ?sarc2, ?sarcLink2, hsz ..⟩,
    ⟨_, hrrc1, ?rrc1, rfl, hsz ..⟩, ⟨_, hrrc2, ?rrc2, hsz ..⟩,
    ⟨_, hswap1, ?swap1, hkeeps _, hsz ..⟩, ⟨_, hswap2, ?swap2, hkeeps _, hsz ..⟩⟩
  all_goals
    simp only [v, State.reg_setRightShift_same, State.status_setRightShift, hw1, hw2, hw3, hw4, toNat_shiftRight_eq,
      toInt_sshiftRight_eq, toNat_getLsbD, toNat_append_eq, toNat_extract, BitVec.toNat_ofBool]
    omega

end Sys2Proof.Machine
end

section
/-! PROOFS. Internal control (spec/45_internal_control.md R300 to R304), NOP, SIN and the saved status
(spec/44_single_register.md R285 to R288), the undefined jump (spec/46_jump.md R328), the branches under a second name
and on an external condition (spec/41_branches.md R219), and the second names (spec/30_encoding.md R127). -/

namespace Sys2Proof.Machine

open Sys2Proof.Claims

/-! What each instruction does -/

section
variable {s : State} (h : s.dbl = false)
include h

theorem exec_eis : exec .eis s = .next (s.setIntff true) := by
  show execEis s = _
  exact State.unlessDbl_next.mpr ⟨h, rfl⟩

theorem exec_dis : exec .dis s = .next (s.setIntff false) := by
  show execDis s = _
  exact State.unlessDbl_next.mpr ⟨h, rfl⟩

theorem exec_sdbd : exec .sdbd s = .next (s.setDbl true) := by
  show execSdbd s = _
  exact State.unlessDbl_next.mpr ⟨h, rfl⟩

theorem exec_tci : exec .tci s = .next (s.emit .tciPulse) := by
  show execTci s = _
  exact State.unlessDbl_next.mpr ⟨h, rfl⟩

theorem exec_nop (n : Bool) : exec (.nop n) s = .next s := by
  show execNop s = _
  exact State.unlessDbl_next.mpr ⟨h, rfl⟩

theorem exec_sin (n : Bool) : exec (.sin n) s = .next (s.emit .pcitPulse) := by
  show execSin s = _
  exact State.unlessDbl_next.mpr ⟨h, rfl⟩

theorem exec_hlt : exec .hlt s =
    .next (if s.plat.hltAfterNext then { s with haltPending := true } else { s with run := .stopped }) := by
  show execHlt s = _
  exact State.unlessDbl_next.mpr ⟨h, rfl⟩

theorem exec_bext (dir : Dir) (disp : Word) (e : BitVec 4) : exec (.bext dir disp e) s =
    .next ((s.branchIf (s.condition e) dir disp).emit (.select e)).consult := by
  show execBext dir disp e s = _
  exact State.unlessDbl_next.mpr ⟨h, rfl⟩

theorem exec_undefJumpDe11 (bb : BitVec 2) (a : Word) :
    exec (.undefJumpDe11 bb a) s = .refused .jumpInterruptControl11 := by
  show execUndefJumpDe11 s = _
  rw [execUndefJumpDe11, h]
  rfl

end

/-- Settles O14: each is one write of INTFF. -/
theorem interruptEnableInstructions : Obligations.InterruptEnableInstructions := by
  unfold Obligations.InterruptEnableInstructions
  exact fun s h => ⟨exec_eis h, exec_dis h, fun _ => ⟨rfl, rfl⟩⟩

/-- Settles O15: one write of the flag D. -/
theorem sdbdSetsDoubleByteFlag : Obligations.SdbdSetsDoubleByteFlag := by
  unfold Obligations.SdbdSetsDoubleByteFlag
  exact fun s h => exec_sdbd h

/-- Settles O16: the parameter decides between the two writes. -/
theorem hltMarksOrStops : Obligations.HltMarksOrStops := by
  unfold Obligations.HltMarksOrStops
  intro s h
  rw [exec_hlt h]
  exact ⟨fun hafter => by rw [if_pos hafter], fun hafter => by rw [if_neg (Bool.eq_false_iff.mp hafter)]⟩

/-- Settles O17: NOP is the identity, SIN and TCI log one event. -/
theorem nopSinTciChangeNoCpuState : Obligations.NopSinTciChangeNoCpuState := by
  unfold Obligations.NopSinTciChangeNoCpuState
  exact fun n s h => ⟨exec_nop h n, rfl, fun _ => rfl, exec_sin h n, exec_tci h⟩

/-- Settles O32: the refusal is the only answer without SDBD. -/
theorem undefinedJumpRefused : Obligations.UndefinedJumpRefused := by
  unfold Obligations.UndefinedJumpRefused
  exact fun bb a s h => exec_undefJumpDe11 h bb a

/-! The saved status (R44) -/

/-- Bits 7 to 4 of the status word are the status bits. -/
@[simp] theorem Status.ofWord_word (f : Status) : Status.ofWord f.word = f := by
  rw [Status.ofWord, Status.getLsbD_word f (by decide), Status.getLsbD_word f (by decide),
    Status.getLsbD_word f (by decide), Status.getLsbD_word f (by decide)]
  rfl

/-- Settles O22: the register holds the status word of the time of GSWD, and its bits 7 to 4 are the status. -/
theorem savedStatusIsRestored : Obligations.SavedStatusIsRestored := by
  unfold Obligations.SavedStatusIsRestored
  intro d s t other ht
  replace ht : execGswd d s = .next t := ht
  obtain ⟨h, rfl⟩ := State.unlessDbl_next.mp ht
  have hword : State.reg { s.setReg d s.status.word with status := other } d = s.status.word :=
    State.reg_setReg_same s d s.status.word
  rw [exec_rswd (s := { s.setReg d s.status.word with status := other }) h d, hword, Status.ofWord_word]
  rfl

/-! Branches -/

/-- The condition of each row is the one its instruction tests (R202, R205, R210, R213). -/
theorem secondNameBranch_branchesOn : ∀ row ∈ Claims.secondNameBranches, BranchesOn row.1 row.2 := by
  simp only [Claims.secondNameBranches, beq_true, beq_false, List.forall_mem_cons, List.not_mem_nil, false_imp_iff,
    implies_true, and_true]
  and_intros
  all_goals exact fun _ _ _ => ⟨rfl, rfl⟩

/-- Settles O34: the row's instruction branches on its condition. -/
theorem secondNameBranches : Obligations.SecondNameBranches := by
  unfold Obligations.SecondNameBranches
  exact fun instr cond hrow dir disp s h => (secondNameBranch_branchesOn (instr, cond) hrow).exec_next dir disp h

/-- A branch changes neither the event log nor the count of consultations. -/
theorem afterBranch_events_oracle (taken : Bool) (dir : Dir) (disp : Word) (s : State) :
    (afterBranch taken dir disp s).events = s.events ∧ (afterBranch taken dir disp s).oracle = s.oracle := by
  cases taken <;> cases dir <;> exact ⟨rfl, rfl⟩

/-- BEXT is a branch on the external condition, with its selector shown and one consultation (R219). -/
theorem exec_bext_afterBranch {s : State} (h : s.dbl = false) (dir : Dir) (disp : Word) (e : BitVec 4) :
    exec (.bext dir disp e) s = .next { afterBranch (s.condition e) dir disp s with
      events := .select e :: s.events, oracle := s.oracle + 1 } := by
  obtain ⟨hevents, horacle⟩ := afterBranch_events_oracle (s.condition e) dir disp s
  rw [exec_bext h, State.branchIf_eq_afterBranch, ← hevents, ← horacle]
  rfl

/-- Settles O35: the condition is the level the sample states, and else the free value. -/
theorem externalBranch : Obligations.ExternalBranch := by
  unfold Obligations.ExternalBranch
  intro dir disp e s h after
  rw [exec_bext_afterBranch h]
  refine ⟨fun levels hlevels => ?stated, fun hnone => ?free⟩
  case stated =>
    have hcondition : s.condition e = levels.getLsbD e.toNat := by rw [State.condition, hlevels]
    rw [hcondition]
  case free =>
    have hcondition : s.condition e = Config.ebci s.oracle e := by rw [State.condition, hnone]
    rw [hcondition]

/-! Second names -/

/-- Settles O60: each of the nine is written as its core instruction is, and the others are their own. -/
theorem secondNamesAreCoreInstructions : Obligations.SecondNamesAreCoreInstructions := by
  unfold Obligations.SecondNamesAreCoreInstructions
  intro i
  cases i
  all_goals exact ⟨fun _ => rfl, fun _ => rfl, fun _ => rfl, fun _ => rfl⟩

end Sys2Proof.Machine
end

section
/-! PROOFS. The data inputs (spec/40_external_reference.md R150 to R161, R167 to R175): the operand of each mode, and
the operation performed on it. -/

namespace Sys2Proof.Machine

open Sys2Proof.Claims

/-! The operand by its mode -/

/-- The value of double byte data as the claims compute it (R158). -/
theorem doubleByte_eq_lowBytes (first second : Word) : doubleByte first second = lowBytes first second := by
  apply BitVec.eq_of_toNat_eq
  rw [doubleByte_toNat, lowBytes, BitVec.toNat_ofNat]
  omega

section
variable (s : State)

/-- Modes 001 to 011 leave the pointer (R153). -/
theorem State.pointerOperand_fixed {m : Reg} (hm : autoUpdated m = false) :
    s.pointerOperand m = (s.busValue (s.reg m), afterRead s (s.reg m)) := by
  cases m <;> first | rfl | cases hm

/-- Modes 100 and 101 step the pointer after use (R154). -/
theorem State.pointerOperand_stepped {m : Reg} (hm : m = .r4 ∨ m = .r5) :
    s.pointerOperand m =
      (s.busValue (s.reg m), { afterRead s (s.reg m) with regs := s.regs.set m (s.reg m + 1) }) := by
  obtain rfl | rfl := hm <;> rfl

/-- After SDBD the pointer is read through twice: at the same address, or at the next (R159). -/
theorem State.doubleOperand_fixed {m : Reg} (hm : autoUpdated m = false) :
    (s.setDbl false).doubleOperand m =
      (lowBytes (s.busValue (s.reg m)) ((afterRead s (s.reg m)).busValue (s.reg m)),
        { afterRead (afterRead s (s.reg m)) (s.reg m) with dbl := false }) := by
  rw [← doubleByte_eq_lowBytes]
  cases m <;> first | rfl | cases hm

theorem State.doubleOperand_stepped {m : Reg} (hm : m = .r4 ∨ m = .r5) :
    (s.setDbl false).doubleOperand m =
      (lowBytes (s.busValue (s.reg m)) ((afterRead s (s.reg m)).busValue (s.reg m + 1)),
        { afterRead (afterRead s (s.reg m)) (s.reg m + 1) with
          dbl := false, regs := s.regs.set m (s.reg m + 2) }) := by
  have htwo : s.reg m + 2 = s.reg m + 1 + 1 := (BitVec.add_assoc _ 1 1).symm
  rw [← doubleByte_eq_lowBytes, htwo]
  obtain rfl | rfl := hm <;> rfl

end

/-! The operation on the operand -/

/-- The three constructors of a data input perform one operation, in their modes. -/
structure InputFamily (direct imm : Word → Reg → Instr) (indirect : Reg → Reg → Instr)
    (operation : Reg → Word → State → State) : Prop where
  direct : ∀ a d s, exec (direct a d) s = s.inputDirect a (operation d)
  immediate : ∀ v d s, exec (imm v d) s = s.inputImmediate v (operation d)
  pointer : ∀ m d s, exec (indirect m d) s = s.inputIndirect m (operation d)

theorem inputFamily_mvi : InputFamily .mvi .mvii .mviAt State.load :=
  ⟨fun _ _ _ => rfl, fun _ _ _ => rfl, fun _ _ _ => rfl⟩

theorem inputFamily_add : InputFamily .add .addi .addAt State.addTo :=
  ⟨fun _ _ _ => rfl, fun _ _ _ => rfl, fun _ _ _ => rfl⟩

theorem inputFamily_sub : InputFamily .sub .subi .subAt State.subFrom :=
  ⟨fun _ _ _ => rfl, fun _ _ _ => rfl, fun _ _ _ => rfl⟩

theorem inputFamily_cmp : InputFamily .cmp .cmpi .cmpAt State.compareWith :=
  ⟨fun _ _ _ => rfl, fun _ _ _ => rfl, fun _ _ _ => rfl⟩

theorem inputFamily_and : InputFamily .and .andi .andAt State.andInto :=
  ⟨fun _ _ _ => rfl, fun _ _ _ => rfl, fun _ _ _ => rfl⟩

theorem inputFamily_xor : InputFamily .xor .xori .xorAt State.xorInto :=
  ⟨fun _ _ _ => rfl, fun _ _ _ => rfl, fun _ _ _ => rfl⟩

section
variable {s u : State} {v : Word}

/-- An operand through a pointer is what the input reads there (R153 to R161). -/
theorem inputIndirect_of_operandOf {m : Reg} (h : operandOf s (.pointer m) = some (v, u))
    (k : Word → State → State) : s.inputIndirect m k = .next (k v u) := by
  rw [State.inputIndirect_next]
  cases hdbl : s.dbl with
  | false =>
    refine .inl ⟨rfl, ?_⟩
    have hoperand : s.pointerOperand m = (v, u) := by
      cases m <;> simp only [operandOf, hdbl, Bool.false_eq_true, if_false, reduceCtorEq, Option.some.injEq] at h
      case r1 | r2 | r3 => exact (s.pointerOperand_fixed rfl).trans h
      case r4 => exact (s.pointerOperand_stepped (.inl rfl)).trans h
      case r5 => exact (s.pointerOperand_stepped (.inr rfl)).trans h
      case r6 => exact s.pointerOperand_r6.trans h
    rw [hoperand]
  | true =>
    refine .inr ⟨rfl, ?_, ?_⟩
    · rintro rfl
      simp [operandOf, hdbl] at h
    · have hoperand : (s.setDbl false).doubleOperand m = (v, u) := by
        cases m <;> simp only [operandOf, hdbl, if_true, reduceCtorEq, Option.some.injEq] at h
        case r1 | r2 | r3 => exact (s.doubleOperand_fixed rfl).trans h
        case r4 => exact (s.doubleOperand_stepped (.inl rfl)).trans h
        case r5 => exact (s.doubleOperand_stepped (.inr rfl)).trans h
      rw [hoperand]

/-- An input of any form performs its operation on the operand, in the state that finding it has left. -/
theorem InputFamily.exec_of_operandOf {direct imm : Word → Reg → Instr} {indirect : Reg → Reg → Instr}
    {operation : Reg → Word → State → State} (hfamily : InputFamily direct imm indirect operation) {f : InputForm}
    (h : operandOf s f = some (v, u)) (d : Reg) :
    exec (f.instr direct imm indirect d) s = .next (operation d v u) := by
  cases f with
  | direct a =>
    rw [operandOf, Option.ite_none_left_eq_some, Option.some.injEq, Prod.mk.injEq] at h
    obtain ⟨hdbl, rfl, rfl⟩ := h
    exact (hfamily.direct a d s).trans (State.inputDirect_next.mpr ⟨Bool.eq_false_iff.mpr hdbl, rfl⟩)
  | immediate w =>
    obtain ⟨rfl, rfl⟩ := Prod.mk.inj (Option.some.inj h)
    exact (hfamily.immediate w d s).trans (State.inputImmediate_next.mpr rfl)
  | pointer m => exact (hfamily.pointer m d s).trans (inputIndirect_of_operandOf h _)

end

/-- Settles O36: the operation is one write of the register. -/
theorem moveInLoadsOperand : Obligations.MoveInLoadsOperand := by
  unfold Obligations.MoveInLoadsOperand
  refine fun f d s u v h => ⟨_, inputFamily_mvi.exec_of_operandOf h d, State.reg_setReg_same .., fun r hr => ?_, rfl⟩
  exact State.reg_setReg_other _ _ _ _ (List.ne_of_not_mem_cons hr)

/-- Settles O38: the operation is the sum with the operand. -/
theorem addOperand : Obligations.AddOperand := by
  unfold Obligations.AddOperand
  exact fun f d s u v h =>
    ⟨_, inputFamily_add.exec_of_operandOf h d, sumOf_addTo u d v, onlyRegsStatus_setSum u d _⟩

/-- Settles O39: the operation is the difference from the register. -/
theorem subtractOperand : Obligations.SubtractOperand := by
  unfold Obligations.SubtractOperand
  exact fun f d s u v h =>
    ⟨_, inputFamily_sub.exec_of_operandOf h d, differenceOf_subFrom u d v, onlyRegsStatus_setSum u d _⟩

/-- Settles O40: the operation writes the status of the difference alone. -/
theorem compareOperand : Obligations.CompareOperand := by
  unfold Obligations.CompareOperand
  exact fun f d s u v h =>
    ⟨_, inputFamily_cmp.exec_of_operandOf h d, differenceOf_compareWith u d v, onlyRegsStatus_setStatus u _⟩

/-- Settles O41: the two operations are one write of a result with S and Z of it. -/
theorem logicOperand : Obligations.LogicOperand := by
  unfold Obligations.LogicOperand
  intro f d s u v h
  have hstatus (w : Word) := logicStatus_setLogic_reg u d w
  have hframe (w : Word) := onlyRegsStatus_setLogic u d w
  refine ⟨⟨_, inputFamily_and.exec_of_operandOf h d, fun k _ => ?and, hstatus _, hframe _⟩,
    ⟨_, inputFamily_xor.exec_of_operandOf h d, fun k _ => ?xor, hstatus _, hframe _⟩⟩
  case and => rw [State.andInto, State.reg_setLogic_same, BitVec.getLsbD_and]
  case xor => rw [State.xorInto, State.reg_setLogic_same, BitVec.getLsbD_xor]

end Sys2Proof.Machine
end

section
/-! PROOFS. The outputs (spec/40_external_reference.md R162 to R166), what a location answers after a store
(spec/20_memory.md R72, R79), the stack, and the interrupt sequence with the return from it
(spec/60_exceptions.md R346, R349). -/

namespace Sys2Proof.Machine

open Sys2Proof.Claims

/-! What each output does -/

section
variable {s : State}

/-- The registers an output leaves, as the claims give them (R154 to R156). -/
theorem State.outputAddress_state_eq (m : Reg) : (s.outputAddress m).2 = afterOutputAddress s m := by
  cases m <;> rfl

/-- Stepping a pointer leaves any other register, and leaves the pointer itself where the mode does not step it. -/
theorem reg_afterOutputAddress {src m : Reg} (hne : ¬(src = m ∧ autoUpdated m = true)) :
    (afterOutputAddress s m).reg src = s.reg src := by
  rw [← State.outputAddress_state_eq, State.outputAddress_state]
  split
  · exact State.reg_setReg_other _ _ _ _ fun heq => hne ⟨heq, ‹_›⟩
  · rfl

theorem exec_mvo (h : s.dbl = false) (src : Reg) (a : Word) :
    exec (.mvo src a) s = .next (s.directWrite a (s.reg src)) := by
  show execMvo src a s = _
  exact State.unlessDbl_next.mpr ⟨h, rfl⟩

/-- An output through a pointer that it does not store and step: a bus write where the pointer was (R162, R163). -/
theorem outputIndirect_eq (h : s.dbl = false) {src m : Reg} (hne : ¬(src = m ∧ autoUpdated m = true)) :
    s.outputIndirect src m = .next ((afterOutputAddress s m).busWrite (s.reg m) (s.reg src)) := by
  rw [State.outputIndirect_next, State.outputAddress_value, State.outputAddress_state_eq, reg_afterOutputAddress hne]
  exact ⟨h, hne, rfl⟩

end

/-- R7 is stepped too, but no mode of MVO@ names it (R114, R154 to R156). -/
theorem stepped_of_isPointer {m : Reg} (hm : m.isPointer = true) (hauto : autoUpdated m = true) :
    m = .r4 ∨ m = .r5 ∨ m = .r6 := by
  cases m <;> simp [Reg.isPointer, autoUpdated] at hm hauto ⊢

/-- Settles O42: a write at the direct address, or a bus write where the pointer was. -/
theorem moveOutStores : Obligations.MoveOutStores := by
  unfold Obligations.MoveOutStores
  refine ⟨fun src a s h => ⟨_, exec_mvo h src a, storedAt_directWrite s a _⟩, fun src m s hwf h hne => ?_⟩
  have hown : ¬(src = m ∧ autoUpdated m = true) := fun hown => hne ⟨hown.1, stepped_of_isPointer hwf hown.2⟩
  exact ⟨_, outputIndirect_eq h hown, storedAt_busWrite _ _ _⟩

/-- Settles O43: the pointer is the program counter. -/
theorem mvoiStoresIntoItself : Obligations.MvoiStoresIntoItself := by
  unfold Obligations.MvoiStoresIntoItself
  exact fun src s h hne => ⟨_, outputIndirect_eq h fun hown => hne hown.1, storedAt_busWrite _ _ _⟩

/-! Plain memory -/

section
variable {s : State} (hplain : PlainMemory s) (a : Word)
include hplain

/-- Without regions every address is 16-bit read/write memory. -/
theorem kindOf_plain : s.plat.kindOf a = .ram := by
  rw [Platform.kindOf, hplain]
  rfl

theorem widthOf_plain : s.plat.widthOf a = 16 := by
  rw [Platform.widthOf, hplain]
  rfl

theorem busValue_plain : s.busValue a = s.mem.readWord a := by
  rw [State.busValue_eq, kindOf_plain hplain, widthOf_plain hplain, drive]
  rfl

theorem store_mem_plain (v : Word) : (s.store a v).mem = s.mem.writeWord a v := by
  rw [State.store_mem, kindOf_plain hplain, widthOf_plain hplain, keep]
  rfl

end

/-- Settles O45: the pull reads the word that the push has stored, at the address the push has stepped from. -/
theorem pushThenPull : Obligations.PushThenPull := by
  unfold Obligations.PushThenPull
  intro src d s t hwf hplain hsrc hd ht
  obtain ⟨h, -, -⟩ := State.outputIndirect_next.mp ht
  rw [exec_pshr h hsrc, Host.Outcome.next.injEq] at ht
  have hdbl : t.dbl = false := by rw [← ht]; simpa using h
  have hreg (r : Reg) : t.reg r = if r = .r6 then s.reg .r6 + 1 else s.reg r := by
    rw [← ht, State.reg_busWrite, State.reg_setReg]
  have hsp : t.reg .r6 - 1 = s.reg .r6 := by rw [hreg, if_pos rfl, BitVec.add_sub_cancel]
  have htplain : PlainMemory t := by
    rw [← ht, PlainMemory, State.busWrite_plat]
    exact hplain
  have hvalue : t.busValue (s.reg .r6) = s.reg src := by
    rw [busValue_plain htplain, ← ht, State.busWrite_mem, store_mem_plain (s := s.setReg _ _) hplain]
    exact Memory.readWord_writeWord_same _ _ hwf
  refine ⟨_, exec_pulr hdbl d, ?_, ?_, fun r hr => ?_⟩
  · rw [State.reg_setReg_same, hsp, hvalue]
  · rw [State.reg_setReg_other _ _ _ _ hd.symm, State.reg_setReg_same, hsp]
  · rw [State.reg_setReg_other _ _ _ _ hr, State.reg_setReg]
    split
    · rw [hsp, ‹r = _›]
    · exact (hreg r).trans (if_neg ‹_›)

/-! What a location answers -/

/-- Memory of `n` bits answers with the bits of its word below `n`, and a word that agrees in them is as good (R72). -/
theorem drives_drive (p : Platform) (a : Word) {w w' : Word}
    (h : w'.toNat % 2 ^ min 16 (p.widthOf a) = w.toNat % 2 ^ min 16 (p.widthOf a)) :
    Drives p a w (drive (p.widthOf a) a w') where
  low := by
    rw [← h]
    apply Nat.eq_of_testBit_eq
    intro k
    rw [Nat.testBit_mod_two_pow, Nat.testBit_mod_two_pow]
    by_cases hk : k < min 16 (p.widthOf a)
    · rw [BitVec.testBit_toNat, BitVec.testBit_toNat, drive_getLsbD _ _ (by omega), if_pos (by omega)]
    · rw [decide_eq_false hk, Bool.false_and, Bool.false_and]
  undriven k hk hlt := by rw [drive_getLsbD _ _ hlt, if_neg (by omega)]

section
variable {s : State}

/-- Read/write memory and ROM answer with their word (R79). -/
theorem drives_busValue {a : Word} (hkind : s.plat.kindOf a = .ram ∨ s.plat.kindOf a = .rom) :
    Drives s.plat a (s.mem.readWord a) (s.busValue a) := by
  rw [State.busValue_eq, if_pos hkind]
  exact drives_drive _ _ rfl

/-- A device and an empty address answer with a free value (R79). -/
theorem busValue_free {a : Word} (hkind : s.plat.kindOf a = .device ∨ s.plat.kindOf a = .nothing) :
    s.busValue a = Config.busWord s.oracle := by
  rw [State.busValue_eq, if_neg]
  obtain hkind | hkind := hkind <;> simp [hkind]

theorem exec_mvi (h : s.dbl = false) (a : Word) (d : Reg) :
    exec (.mvi a d) s = .next ((s.directRead a).2.setReg d (s.busValue a)) :=
  State.inputDirect_next.mpr ⟨h, rfl⟩

/-- What a location answers after a write: read/write memory there what it has kept of the word, memory anywhere else
its word as before (R72, R79). -/
theorem drives_busValue_directWrite {a : Word} (hwf : s.mem.wf = true) (v : Word) (hkind : s.plat.kindOf a = .ram) :
    Drives s.plat a v ((s.directWrite a v).busValue a) := by
  rw [State.busValue_eq, State.directWrite_plat, if_pos (.inl hkind), State.directWrite_mem, State.store_mem,
    if_pos hkind, Memory.readWord_writeWord_same _ _ hwf]
  exact drives_drive _ _ (by rw [keep_toNat, Nat.mod_mod])

theorem readWord_directWrite_other {a b : Word} (h : b ≠ a ∨ s.plat.kindOf a ≠ .ram) (v : Word) :
    (s.directWrite a v).mem.readWord b = s.mem.readWord b := by
  rw [State.directWrite_mem, State.store_mem]
  split
  · exact Memory.readWord_writeWord_other (h.resolve_right (not_not_intro ‹_›)) _ _
  · rfl

end

/-- Settles O46: a read answers by the kind of the location, and a store changes the one word of read/write memory. -/
theorem storeThenLoad : Obligations.StoreThenLoad := by
  unfold Obligations.StoreThenLoad
  refine ⟨fun b d s h => ⟨_, exec_mvi h b d, ?_⟩, fun src d a b s t hwf ht => ?_⟩
  · rw [State.reg_setReg_same]
    exact ⟨drives_busValue, busValue_free⟩
  · replace ht : execMvo src a s = .next t := ht
    obtain ⟨h, rfl⟩ := State.unlessDbl_next.mp ht
    have hdbl : (s.directWrite a (s.reg src)).dbl = false := by simpa using h
    have hplat : (s.directWrite a (s.reg src)).plat = s.plat := by simp
    have hother (hb : b ≠ a ∨ s.plat.kindOf a ≠ .ram) (hkind : s.plat.kindOf b = .ram ∨ s.plat.kindOf b = .rom) :
        Drives s.plat b (s.mem.readWord b) ((s.directWrite a (s.reg src)).busValue b) := by
      have hdrives := drives_busValue (s := s.directWrite a (s.reg src)) (a := b)
      rw [hplat, readWord_directWrite_other hb] at hdrives
      exact hdrives hkind
    refine ⟨_, exec_mvi hdbl b d, ?_⟩
    rw [State.reg_setReg_same]
    refine ⟨fun hb hkind => ?_, fun hb hkind => hother (.inl hb) (.inl hkind), fun hkind => hother ?_ (.inr hkind),
      fun hplain => ?_⟩
    · subst hb
      exact drives_busValue_directWrite hwf _ hkind
    · by_cases hb : b = a
      · exact .inr (by simp [← hb, hkind])
      · exact .inl hb
    · rw [busValue_plain (s := s.directWrite a (s.reg src)) (by rw [PlainMemory, hplat]; exact hplain)]
      split
      · subst b
        rw [State.directWrite_mem, store_mem_plain hplain, Memory.readWord_writeWord_same _ _ hwf]
      · exact readWord_directWrite_other (.inl ‹_›) _

/-! The interrupt sequence -/

section
variable (s : State)

theorem State.mem_takeInterrupt : s.takeInterrupt.mem = (s.store (s.reg .r6) (s.reg .r7)).mem := by
  rw [State.takeInterrupt_eq]

theorem State.regs_takeInterrupt :
    s.takeInterrupt.regs = (s.regs.set .r6 (s.reg .r6 + 1)).set .r7 s.pins.vector := by
  rw [State.takeInterrupt_eq]

theorem State.reg_takeInterrupt (r : Reg) : s.takeInterrupt.reg r =
    if r = .r7 then s.pins.vector else if r = .r6 then s.reg .r6 + 1 else s.reg r := by
  rw [State.reg, State.regs_takeInterrupt, Regs.get_set, Regs.get_set]
  rfl

end

/-- Settles O48: the sequence as one update, whose store is that of the program counter at the stack pointer. -/
theorem interruptSequence : Obligations.InterruptSequence := by
  unfold Obligations.InterruptSequence
  intro s t sp
  have hstored := storedWord_store s sp (s.reg .r7)
  have hmem : t.mem = (s.store sp (s.reg .r7)).mem := State.mem_takeInterrupt s
  refine ⟨State.reg_takeInterrupt s .r7, State.reg_takeInterrupt s .r6, fun r hr => ?_, ?_, fun hwf hkind hwidth => ?_,
    ?_⟩
  · obtain ⟨h6, h7⟩ : r ≠ .r6 ∧ r ≠ .r7 := by simpa using hr
    exact (State.reg_takeInterrupt s r).trans (by rw [if_neg h7, if_neg h6])
  · exact ⟨by rw [hmem]; exact hstored.others, by rw [hmem]; exact hstored.value, by rw [hmem]; exact hstored.noRam⟩
  · rw [hmem, State.store_mem, if_pos hkind, Memory.readWord_writeWord_same _ _ hwf, keep, if_pos hwidth]
  · rw [hmem, show t.regs = _ from State.regs_takeInterrupt s]
    exact State.takeInterrupt_eq s

/-- Settles O49: PULR R7 reads the word that the sequence has stored below the stack pointer it left. -/
theorem interruptThenReturn : Obligations.InterruptThenReturn := by
  unfold Obligations.InterruptThenReturn
  intro s r hwf hplain hr6 hword hplat h
  have hsp : r.reg .r6 - 1 = s.reg .r6 := by
    rw [hr6, State.reg_takeInterrupt]
    exact BitVec.add_sub_cancel _ _
  have hrplain : PlainMemory r := by rw [PlainMemory, hplat]; exact hplain
  have hvalue : r.busValue (s.reg .r6) = s.reg .r7 := by
    rw [busValue_plain hrplain, hword, State.mem_takeInterrupt, store_mem_plain hplain,
      Memory.readWord_writeWord_same _ _ hwf]
  refine ⟨_, exec_pulr h .r7, ?_, ?_, fun x hx => ?_, rfl, rfl, rfl⟩
  · rw [State.reg_setReg_same, hsp, hvalue]
  · rw [State.reg_setReg_other _ _ _ _ (by decide), State.reg_setReg_same, hsp]
  · obtain ⟨h6, h7⟩ : x ≠ .r6 ∧ x ≠ .r7 := by simpa using hx
    rw [State.reg_setReg_other _ _ _ _ h7, State.reg_setReg_other _ _ _ _ h6]
    rfl

end Sys2Proof.Machine
end

section
/-! PROOFS. What every instruction leaves alone (spec/10_state.md R36, R43, R45, R47; spec/20_memory.md R82): the state
after a data input, an output and any other instruction, and from it the frames over all instructions. -/

namespace Sys2Proof.Machine

open Sys2Proof.Claims

variable {s t u : State}

/-! The next state of each shared operation -/

/-- An instruction that is refused after SDBD alone has a next state without it. -/
theorem next_of_afterSdbd {dbl : Bool} {r : Refusal} {x : State}
    (h : (if dbl then .refused r else .next x : Result) = .next t) : dbl = false ∧ x = t := by
  cases dbl with
  | false => exact ⟨rfl, Host.Outcome.next.inj h⟩
  | true => cases h

/-- `u` is `s` after the operand of an input has been found: the flag D is consumed, no register has changed but those
in the list, and the reads are in the event log (R151, R153 to R156). -/
structure OperandFound (stepped : List Reg) (reads : List Event) (s u : State) : Prop where
  regs : KeepsRegsBut stepped s u
  events : u.events = reads ++ s.events
  rest : u = { s with dbl := false, regs := u.regs, oracle := u.oracle, events := u.events }

/-- The pointer that a mode updates. -/
def steppedPointer (m : Reg) : List Reg := if autoUpdated m then [m] else []

theorem not_mem_steppedPointer {m r : Reg} (h : r ∉ steppedPointer m) : r ≠ m ∨ autoUpdated m = false := by
  unfold steppedPointer at h
  split at h
  · exact .inl (List.ne_of_not_mem_cons h)
  · exact .inr (Bool.eq_false_iff.mpr ‹_›)

/-- Among the registers that a mode of `@` names, R4, R5 and R6 are updated (R154 to R156). -/
theorem steppedPointer_eq {m : Reg} (hm : m.isPointer = true) :
    steppedPointer m = if m = .r4 ∨ m = .r5 ∨ m = .r6 then [m] else [] := by
  cases m <;> first | rfl | cases hm

/-- The reads of an input through a pointer, the last first: one, or two after SDBD (R158, R159). -/
def readsThrough (s : State) (m : Reg) : List Event :=
  if s.dbl then
    readCycles (afterRead s (s.reg m)) (if autoUpdated m then s.reg m + 1 else s.reg m) ++ readCycles s (s.reg m)
  else readCycles s (if m = .r6 then s.reg .r6 - 1 else s.reg m)

/-- They are those of the table, for a pointer that a mode names and that SDBD supports. -/
theorem readsThrough_eq {m : Reg} (hm : m.isPointer = true) (h6 : m = .r6 → s.dbl = false) :
    readsThrough s m = pointerReads s m := by
  cases m with
  | r0 | r7 => cases hm
  | r6 => simp [readsThrough, pointerReads, h6 rfl]
  | _ => simp [readsThrough, pointerReads, autoUpdated]

theorem operandFound_direct (h : s.dbl = false) (a : Word) :
    OperandFound [] [.dtb (s.busValue a)] s (s.directRead a).2 where
  regs _ _ := rfl
  events := rfl
  rest := by rw [← h]; rfl

theorem operandFound_immediate (s : State) : OperandFound [] [] s (s.setDbl false) where
  regs _ _ := rfl
  events := rfl
  rest := rfl

/-- The operand of an input through a pointer, single or double byte. -/
theorem operandFound_indirect {m : Reg} {k : Word → State → State} (h : s.inputIndirect m k = .next t) :
    ∃ v u, t = k v u ∧ OperandFound (steppedPointer m) (readsThrough s m) s u := by
  rw [State.inputIndirect_next] at h
  obtain ⟨hdbl, rfl⟩ | ⟨hdbl, hm, rfl⟩ := h
  · obtain ⟨a, v, regs, ha, hv, heq, hregs⟩ := State.pointerOperand_eq s m
    refine ⟨_, _, rfl, ?_⟩
    rw [heq]
    refine ⟨fun r hr => hregs r (not_mem_steppedPointer hr), ?_, by rw [← hdbl]⟩
    rw [readsThrough, hdbl, ← ha, hv]
    rfl
  · obtain ⟨a, v, b, w, regs, ha, hv, hb, hw, heq, hregs⟩ := State.doubleOperand_eq (s.setDbl false) m
    refine ⟨_, _, rfl, ?_⟩
    rw [heq]
    refine ⟨fun r hr => hregs r (not_mem_steppedPointer hr), ?_, rfl⟩
    rw [if_neg hm] at ha hb
    rw [readsThrough, hdbl, hv, hw, ha, hb]
    rfl

/-! The data inputs -/

/-- What a data input does with its operand (R167 to R175). -/
def inputOperation : Instr → Word → State → State
  | .mvi _ d | .mvii _ d | .mviAt _ d | .pulr d => State.load d
  | .add _ d | .addi _ d | .addAt _ d => State.addTo d
  | .sub _ d | .subi _ d | .subAt _ d => State.subFrom d
  | .cmp _ d | .cmpi _ d | .cmpAt _ d => State.compareWith d
  | .and _ d | .andi _ d | .andAt _ d => State.andInto d
  | .xor _ d | .xori _ d | .xorAt _ d => State.xorInto d
  | _ => fun _ s => s

/-- The register in which a data input leaves a result. -/
def inputDestination : Instr → List Reg
  | .mvi _ d | .mvii _ d | .mviAt _ d | .pulr d => [d]
  | .add _ d | .addi _ d | .addAt _ d | .sub _ d | .subi _ d | .subAt _ d => [d]
  | .and _ d | .andi _ d | .andAt _ d | .xor _ d | .xori _ d | .xorAt _ d => [d]
  | _ => []

/-- The pointer that the mode of a data input updates. -/
def inputPointer : Instr → List Reg
  | .mviAt m _ | .addAt m _ | .subAt m _ | .cmpAt m _ | .andAt m _ | .xorAt m _ => steppedPointer m
  | .pulr _ => steppedPointer .r6
  | _ => []

/-- The reads of a data input besides its fetch. -/
def inputReads (s : State) : Instr → List Event
  | .mvi a _ | .add a _ | .sub a _ | .cmp a _ | .and a _ | .xor a _ => [.dtb (s.busValue a)]
  | .mviAt m _ | .addAt m _ | .subAt m _ | .cmpAt m _ | .andAt m _ | .xorAt m _ => readsThrough s m
  | .pulr _ => readsThrough s .r6
  | _ => []

theorem onlyRegsStatus_inputOperation (i : Instr) (v : Word) (u : State) :
    OnlyRegsStatus (inputDestination i) u (inputOperation i v u) := by
  cases i with
  | mvi _ d | mvii _ d | mviAt _ d | pulr d =>
    exact ⟨fun r hr => State.reg_setReg_other _ _ _ _ (List.ne_of_not_mem_cons hr), rfl⟩
  | add _ d | addi _ d | addAt _ d | sub _ d | subi _ d | subAt _ d => exact onlyRegsStatus_setSum u d _
  | cmp _ d | cmpi _ d | cmpAt _ d => exact onlyRegsStatus_setStatus u _
  | and _ d | andi _ d | andAt _ d | xor _ d | xori _ d | xorAt _ d => exact onlyRegsStatus_setLogic u d _
  | _ => exact ⟨fun _ _ => rfl, rfl⟩

/-- A data input finds its operand and performs its operation, in any mode. -/
theorem dataInput_next {i : Instr} (hi : isDataInput i = true) (h : exec i s = .next t) :
    ∃ v u, t = inputOperation i v u ∧ OperandFound (inputPointer i) (inputReads s i) s u := by
  cases i with
  | mvi a _ | add a _ | sub a _ | cmp a _ | and a _ | xor a _ =>
    obtain ⟨hdbl, rfl⟩ := next_of_afterSdbd (dbl := s.dbl) h
    exact ⟨_, _, rfl, operandFound_direct hdbl a⟩
  | mvii _ _ | addi _ _ | subi _ _ | cmpi _ _ | andi _ _ | xori _ _ =>
    exact ⟨_, _, (Host.Outcome.next.inj h).symm, operandFound_immediate s⟩
  | mviAt _ _ | addAt _ _ | subAt _ _ | cmpAt _ _ | andAt _ _ | xorAt _ _ | pulr _ => exact operandFound_indirect h
  | _ => cases hi

/-! The outputs -/

/-- `t` is `s` after an output to the address `ea`, which may step its pointer (R154 to R156, R162). -/
structure OutputDone (stepped : List Reg) (ea : Word) (s t : State) : Prop where
  regs : KeepsRegsBut stepped s t
  others : ∀ k, k ≠ 2 * ea.toNat → k ≠ 2 * ea.toNat + 1 → t.mem.readByte k = s.mem.readByte k
  wf : s.mem.wf = true → t.mem.wf = true
  rest : t = { s with dbl := false, regs := t.regs, mem := t.mem, events := t.events }

/-- The pointer that the mode of an output updates. -/
def outputPointer : Instr → List Reg
  | .mvoAt _ m => steppedPointer m
  | .mvoi _ => steppedPointer .r7
  | .pshr _ => steppedPointer .r6
  | _ => []

theorem keepsRegsBut_afterOutputAddress (s : State) (m : Reg) :
    KeepsRegsBut (steppedPointer m) s (afterOutputAddress s m) := fun r hr => by
  obtain hne | hfixed := not_mem_steppedPointer hr
  · rw [← State.outputAddress_state_eq, State.outputAddress_state]
    split
    · exact State.reg_setReg_other _ _ _ _ hne
    · rfl
  · rw [← State.outputAddress_state_eq, State.outputAddress_state, hfixed]
    rfl

/-- A write changes the memory and the event log alone. -/
theorem State.directWrite_rest (s : State) (a v : Word) : s.directWrite a v =
    { s with mem := (s.directWrite a v).mem, events := .nact :: .dws v :: .dw v :: s.events } :=
  (storedAt_directWrite s a v).rest

theorem outputDone_direct (h : s.dbl = false) (a v : Word) : OutputDone [] a s (s.directWrite a v) where
  regs _ _ := State.reg_directWrite ..
  others := (storedWord_store s a v).others
  wf := State.store_wf a v
  rest := by
    rw [State.directWrite_rest, ← h]

/-- A write through a pointer is one in the state in which the pointer is stepped and its address sent. -/
theorem outputDone_indirect {src m : Reg} (h : s.outputIndirect src m = .next t) :
    OutputDone (steppedPointer m) (s.reg m) s t ∧
      t.events = writeCycles ((afterOutputAddress s m).reg src) ++ [.nact, .bar (s.reg m)] ++ s.events := by
  obtain ⟨hdbl, -, rfl⟩ := State.outputIndirect_next.mp h
  rw [State.outputAddress_value, State.outputAddress_state_eq]
  have hkeeps := keepsRegsBut_afterOutputAddress s m
  obtain ⟨regs, hstep⟩ : ∃ regs, afterOutputAddress s m = { s with regs := regs } := by cases m <;> exact ⟨_, rfl⟩
  generalize (afterOutputAddress s m).reg src = v
  rw [hstep] at hkeeps ⊢
  have hdone := outputDone_direct (s := State.sendAddress { s with regs := regs } (s.reg m)) hdbl (s.reg m) v
  exact ⟨⟨fun r hr => (hdone.regs r List.not_mem_nil).trans (hkeeps r hr), hdone.others, hdone.wf, hdone.rest⟩,
    State.busWrite_events ..⟩

/-- An output stores at the address of its form. -/
theorem output_next {i : Instr} {ea : Word} (hi : storeAddress s i = some ea) (h : exec i s = .next t) :
    OutputDone (outputPointer i) ea s t := by
  cases i with
  | mvo src a =>
    obtain rfl := Option.some.inj hi
    obtain ⟨hdbl, rfl⟩ := next_of_afterSdbd (dbl := s.dbl) h
    exact outputDone_direct hdbl a _
  | mvoAt _ m | mvoi _ | pshr _ =>
    obtain rfl := Option.some.inj hi
    exact (outputDone_indirect h).1
  | _ => cases hi

/-! The instructions on registers and status bits alone -/

/-- The instruction makes no access after its fetch, shows nothing on a pin and writes no flip-flop. -/
def isInternal : Instr → Bool
  | .hlt | .sdbd | .eis | .dis | .tci | .sin _ | .bext _ _ _ | .undefJumpDe11 _ _ => false
  | .je _ | .jd _ | .jsre _ _ | .jsrd _ _ => false
  | .mvo _ _ | .mvoi _ | .mvoAt _ _ | .pshr _ => false
  | i => !isDataInput i

theorem onlyRegsStatus_setReg (s : State) (d : Reg) (v : Word) : OnlyRegsStatus [d] s (s.setReg d v) where
  regs _ hr := State.reg_setReg_other _ _ _ _ (List.ne_of_not_mem_cons hr)
  rest := rfl

theorem onlyRegsStatus_branchIf (s : State) (taken : Bool) (dir : Dir) (disp : Word) :
    OnlyRegsStatus [.r7] s (s.branchIf taken dir disp) := by
  cases taken with
  | false => exact ⟨fun _ _ => rfl, rfl⟩
  | true => exact onlyRegsStatus_setReg s .r7 _

theorem onlyRegsStatus_jump_some (s : State) (link : Reg) (a : Word) :
    OnlyRegsStatus [link, .r7] s (s.jump (some link) none a) where
  regs := (onlyRegs_jump_some s link none a).regs
  rest := rfl

/-- An internal instruction changes the registers it names and the status bits alone. -/
theorem internal_next {i : Instr} (hi : isInternal i = true) (h : exec i s = .next t) :
    s.dbl = false ∧ OnlyRegsStatus (registersWritten i) s t := by
  cases i with
  | clrc | setc | nop _ | rswd _ | cmpr _ _ | nopp _ _ =>
    obtain ⟨hdbl, rfl⟩ := next_of_afterSdbd (dbl := s.dbl) h
    exact ⟨hdbl, fun _ _ => rfl, rfl⟩
  | incr d | decr d | comr d | movr _ d | tstr d | jr _ | andr _ d | xorr _ d | clrr d =>
    obtain ⟨hdbl, rfl⟩ := next_of_afterSdbd (dbl := s.dbl) h
    exact ⟨hdbl, onlyRegsStatus_setLogic s _ _⟩
  | addr _ d | subr _ d | negr d | adcr d =>
    obtain ⟨hdbl, rfl⟩ := next_of_afterSdbd (dbl := s.dbl) h
    exact ⟨hdbl, onlyRegsStatus_setSum s d _⟩
  | gswd d =>
    obtain ⟨hdbl, rfl⟩ := next_of_afterSdbd (dbl := s.dbl) h
    exact ⟨hdbl, onlyRegsStatus_setReg s d _⟩
  | swap r _ | sll r _ | slr r _ | sar r _ =>
    obtain ⟨hdbl, rfl⟩ := next_of_afterSdbd (dbl := s.dbl) h
    exact ⟨hdbl, onlyRegsStatus_setShift s r _ _ _ _⟩
  | rlc r n | sllc r n | rrc r n | sarc r n =>
    obtain ⟨hdbl, rfl⟩ := next_of_afterSdbd (dbl := s.dbl) h
    cases n <;> exact ⟨hdbl, onlyRegsStatus_setShift s r _ _ _ _⟩
  | b _ _ | bc _ _ | bov _ _ | bpl _ _ | bze _ _ | blt _ _ | ble _ _ | busc _ _ | bnc _ _ | bnov _ _ | bmi _ _
  | bnze _ _ | bge _ _ | bgt _ _ | besc _ _ | blgt _ _ | bllt _ _ | beq _ _ | bneq _ _ =>
    obtain ⟨hdbl, rfl⟩ := next_of_afterSdbd (dbl := s.dbl) h
    exact ⟨hdbl, onlyRegsStatus_branchIf s _ _ _⟩
  | j a =>
    obtain ⟨hdbl, rfl⟩ := next_of_afterSdbd (dbl := s.dbl) h
    exact ⟨hdbl, onlyRegsStatus_setReg s .r7 a⟩
  | jsr link a =>
    obtain ⟨hdbl, rfl⟩ := next_of_afterSdbd (dbl := s.dbl) h
    exact ⟨hdbl, onlyRegsStatus_jump_some s link a⟩
  | _ => cases hi

/-! The rest: HLT, the undefined jump and BEXT -/

/-- HLT writes the run state or the pending halt (R300). -/
theorem hlt_next (h : exec .hlt s = .next t) :
    s.dbl = false ∧ t = { s with run := t.run, haltPending := t.haltPending } ∧
      (t.haltPending = true → s.haltPending = true ∨ s.plat.hltAfterNext = true) := by
  obtain ⟨hdbl, -⟩ := next_of_afterSdbd (dbl := s.dbl) h
  rw [exec_hlt hdbl, Host.Outcome.next.injEq] at h
  refine ⟨hdbl, ?_⟩
  split at h <;> subst h
  · exact ⟨rfl, fun _ => .inr ‹_›⟩
  · exact ⟨rfl, .inl⟩

theorem undefJumpDe11_no_next {bb : BitVec 2} {a : Word} (h : exec (.undefJumpDe11 bb a) s = .next t) : False := by
  replace h : execUndefJumpDe11 s = .next t := h
  rw [execUndefJumpDe11] at h
  split at h <;> cases h

/-- BEXT is a branch that logs its selector and consults the free values once (R219). -/
theorem bext_next {dir : Dir} {disp : Word} {e : BitVec 4} (h : exec (.bext dir disp e) s = .next t) :
    s.dbl = false ∧ ∃ u, OnlyRegsStatus [.r7] s u ∧ t = (u.emit (.select e)).consult ∧ u.status = s.status := by
  obtain ⟨hdbl, rfl⟩ := next_of_afterSdbd (dbl := s.dbl) h
  exact ⟨hdbl, _, onlyRegsStatus_branchIf s _ dir disp, rfl, by rw [State.branchIf_eq]⟩

/-! The frame over all instructions -/

/-- INTFF after an instruction: EIS, DIS and the jumps that name it write it (R45). -/
def intffAfter (old : Bool) : Instr → Bool
  | .eis | .je _ | .jsre _ _ => true
  | .dis | .jd _ | .jsrd _ _ => false
  | _ => old

/-- What an instruction leaves alone: the pins, the samples, the boundary and the parameters always (R9 of
spec/00_scope.md); the flag D but that SDBD sets it and any other instruction clears it (R47); INTFF but by the
instructions that name it (R45); the run state but by HLT (R300); memory but by an output (R82). -/
structure InstrFrame (i : Instr) (s t : State) : Prop where
  rest : t = { s with regs := t.regs, status := t.status, intff := t.intff, dbl := t.dbl, run := t.run,
                      haltPending := t.haltPending, mem := t.mem, oracle := t.oracle, events := t.events }
  dbl : t.dbl = decide (i = .sdbd)
  intff : t.intff = intffAfter s.intff i
  halting : (t.run = s.run ∧ t.haltPending = s.haltPending) ∨
    (i = .hlt ∧ (t.haltPending = true → s.haltPending = true ∨ s.plat.hltAfterNext = true))
  mem : storeAddress s i = none → t.mem = s.mem

/-- What a data input leaves of the state. -/
theorem dataInput_rest {i : Instr} (hi : isDataInput i = true) (h : exec i s = .next t) :
    t = { s with dbl := false, regs := t.regs, status := t.status, oracle := t.oracle, events := t.events } := by
  obtain ⟨v, u, rfl, hfound⟩ := dataInput_next hi h
  have hrest := (onlyRegsStatus_inputOperation i v u).rest
  generalize inputOperation i v u = t at hrest
  rw [hrest, hfound.rest]

/-- Every instruction has the frame: the data inputs, the outputs and the internal instructions by their own frames,
and the few others by what they write. -/
theorem exec_frame {i : Instr} (h : exec i s = .next t) : InstrFrame i s t := by
  cases i with
  | mvi _ _ | mvii _ _ | mviAt _ _ | pulr _ | add _ _ | addi _ _ | addAt _ _ | sub _ _ | subi _ _ | subAt _ _
  | cmp _ _ | cmpi _ _ | cmpAt _ _ | and _ _ | andi _ _ | andAt _ _ | xor _ _ | xori _ _ | xorAt _ _ =>
    rw [dataInput_rest rfl h]
    exact ⟨rfl, rfl, rfl, .inl ⟨rfl, rfl⟩, fun _ => rfl⟩
  | mvo _ _ | mvoAt _ _ | mvoi _ | pshr _ =>
    rw [(output_next rfl h).rest]
    exact ⟨rfl, rfl, rfl, .inl ⟨rfl, rfl⟩, nofun⟩
  | undefJumpDe11 _ _ => exact (undefJumpDe11_no_next h).elim
  | hlt =>
    obtain ⟨hdbl, hrest, hpending⟩ := hlt_next h
    rw [hrest]
    exact ⟨rfl, hdbl, rfl, .inr ⟨rfl, hpending⟩, fun _ => rfl⟩
  | sdbd =>
    obtain ⟨-, rfl⟩ := next_of_afterSdbd (dbl := s.dbl) h
    exact ⟨rfl, rfl, rfl, .inl ⟨rfl, rfl⟩, fun _ => rfl⟩
  | eis | dis | tci | sin _ | je _ | jd _ | jsre _ _ | jsrd _ _ =>
    obtain ⟨hdbl, rfl⟩ := next_of_afterSdbd (dbl := s.dbl) h
    exact ⟨rfl, hdbl, rfl, .inl ⟨rfl, rfl⟩, fun _ => rfl⟩
  | bext _ _ _ =>
    obtain ⟨hdbl, u, hu, rfl, -⟩ := bext_next h
    rw [hu.rest]
    exact ⟨rfl, hdbl, rfl, .inl ⟨rfl, rfl⟩, fun _ => rfl⟩
  | _ =>
    obtain ⟨hdbl, hregs⟩ := internal_next rfl h
    rw [hregs.rest]
    exact ⟨rfl, hdbl, rfl, .inl ⟨rfl, rfl⟩, fun _ => rfl⟩

/-- Settles O55: the field of the frame that speaks of the flag D. -/
theorem doubleByteFlagConsumed : Obligations.DoubleByteFlagConsumed := by
  unfold Obligations.DoubleByteFlagConsumed
  exact fun _ _ _ h => (exec_frame h).dbl

/-- Settles O57: an output changes its word alone, and nothing else changes memory. -/
theorem memoryWrittenOnlyByMoveOut : Obligations.MemoryWrittenOnlyByMoveOut := by
  unfold Obligations.MemoryWrittenOnlyByMoveOut
  exact fun _ _ _ h => ⟨(exec_frame h).mem, fun _ hi => (output_next hi h).others⟩

/-- Every instruction keeps the canonical form of memory. -/
theorem exec_wf {i : Instr} (h : exec i s = .next t) (hwf : s.mem.wf = true) : t.mem.wf = true := by
  cases hi : storeAddress s i with
  | none => rw [(exec_frame h).mem hi, hwf]
  | some ea => exact (output_next hi h).wf hwf

/-! The registers -/

theorem KeepsRegsBut_trans {xs ys : List Reg} (h : KeepsRegsBut xs s u) (h' : KeepsRegsBut ys u t) :
    KeepsRegsBut (xs ++ ys) s t := fun r hr => by
  rw [List.mem_append, not_or] at hr
  rw [h' r hr.2, h r hr.1]

/-- The registers of a data input are the pointer that its mode steps and its destination. -/
theorem registersWritten_dataInput {i : Instr} (hi : isDataInput i = true) (hwf : i.WellFormed) :
    registersWritten i = inputPointer i ++ inputDestination i := by
  cases i with
  | mviAt m _ | addAt m _ | subAt m _ | cmpAt m _ | andAt m _ | xorAt m _ =>
    simp only [inputPointer, steppedPointer_eq (m := m) hwf, registersWritten, inputDestination]
    split <;> rfl
  | mvi _ _ | mvii _ _ | add _ _ | addi _ _ | sub _ _ | subi _ _ | cmp _ _ | cmpi _ _ | and _ _ | andi _ _ | xor _ _
  | xori _ _ | pulr _ => rfl
  | _ => cases hi

/-- The register of an output is the pointer that its mode steps. -/
theorem registersWritten_output {i : Instr} {ea : Word} (hi : storeAddress s i = some ea) (hwf : i.WellFormed) :
    registersWritten i = outputPointer i := by
  cases i with
  | mvoAt _ m => rw [outputPointer, steppedPointer_eq hwf, registersWritten]
  | mvo _ _ | mvoi _ | pshr _ => rfl
  | _ => cases hi

/-- Settles O56: the registers of each of the shared forms, and of the few instructions besides. -/
theorem registersWrittenOnlyByName : Obligations.RegistersWrittenOnlyByName := by
  unfold Obligations.RegistersWrittenOnlyByName
  intro i s t hwf h
  have hinput (hi : isDataInput i = true) : KeepsRegsBut (registersWritten i) s t := by
    obtain ⟨v, u, rfl, hfound⟩ := dataInput_next hi h
    rw [registersWritten_dataInput hi hwf]
    exact KeepsRegsBut_trans hfound.regs (onlyRegsStatus_inputOperation i v u).regs
  have houtput {ea : Word} (hi : storeAddress s i = some ea) : KeepsRegsBut (registersWritten i) s t := by
    rw [registersWritten_output hi hwf]
    exact (output_next hi h).regs
  cases i with
  | mvi _ _ | mvii _ _ | mviAt _ _ | pulr _ | add _ _ | addi _ _ | addAt _ _ | sub _ _ | subi _ _ | subAt _ _
  | cmp _ _ | cmpi _ _ | cmpAt _ _ | and _ _ | andi _ _ | andAt _ _ | xor _ _ | xori _ _ | xorAt _ _ =>
    exact hinput rfl
  | mvo _ _ | mvoAt _ _ | mvoi _ | pshr _ => exact houtput rfl
  | undefJumpDe11 _ _ => exact (undefJumpDe11_no_next h).elim
  | hlt =>
    obtain ⟨-, hrest, -⟩ := hlt_next h
    rw [hrest]
    exact fun _ _ => rfl
  | sdbd | eis | dis | tci | sin _ =>
    obtain ⟨-, rfl⟩ := next_of_afterSdbd (dbl := s.dbl) h
    exact fun _ _ => rfl
  | je a | jd a =>
    obtain ⟨-, rfl⟩ := next_of_afterSdbd (dbl := s.dbl) h
    exact (onlyRegsStatus_setReg s .r7 a).regs
  | jsre link a | jsrd link a =>
    obtain ⟨-, rfl⟩ := next_of_afterSdbd (dbl := s.dbl) h
    exact (onlyRegs_jump_some s link _ a).regs
  | bext _ _ _ =>
    obtain ⟨-, u, hu, rfl, -⟩ := bext_next h
    exact hu.regs
  | _ => exact (internal_next rfl h).2.regs

/-! The status bits -/

/-- The bits that a row of the status table leaves blank keep their values (R43). -/
structure KeepsBlankBits (writes : Bool × Bool × Bool × Bool) (old new : Status) : Prop where
  s : writes.1 = false → new.s = old.s
  z : writes.2.1 = false → new.z = old.z
  c : writes.2.2.1 = false → new.c = old.c
  ov : writes.2.2.2 = false → new.ov = old.ov

theorem keepsBlankBits_of_eq {writes : Bool × Bool × Bool × Bool} {old new : Status} (h : new = old) :
    KeepsBlankBits writes old new := by
  subst h
  exact ⟨fun _ => rfl, fun _ => rfl, fun _ => rfl, fun _ => rfl⟩

theorem State.status_branchIf (s : State) (taken : Bool) (dir : Dir) (disp : Word) :
    (s.branchIf taken dir disp).status = s.status := by
  rw [State.branchIf_eq]

/-- Row by row of the table (R43). -/
theorem exec_status {i : Instr} (h : exec i s = .next t) : KeepsBlankBits (statusWrites i) s.status t.status := by
  have hinput (hi : isDataInput i = true) :
      ∃ v u, t = inputOperation i v u ∧ s.status = u.status := by
    obtain ⟨v, u, rfl, hfound⟩ := dataInput_next hi h
    exact ⟨v, u, rfl, by rw [hfound.rest]⟩
  cases i with
  -- S, Z, C and OV
  | addr _ _ | subr _ _ | cmpr _ _ | negr _ | adcr _ | rswd _ | add _ _ | addi _ _ | addAt _ _ | sub _ _ | subi _ _
  | subAt _ _ | cmp _ _ | cmpi _ _ | cmpAt _ _ => exact ⟨nofun, nofun, nofun, nofun⟩
  -- S and Z
  | movr _ _ | tstr _ | jr _ | andr _ _ | xorr _ _ | clrr _ | incr _ | decr _ | comr _ | swap _ _ | sll _ _ | slr _ _
  | sar _ _ =>
    obtain ⟨-, rfl⟩ := next_of_afterSdbd (dbl := s.dbl) h
    exact ⟨nofun, nofun, fun _ => rfl, fun _ => rfl⟩
  | and _ _ | andi _ _ | andAt _ _ | xor _ _ | xori _ _ | xorAt _ _ =>
    obtain ⟨v, u, rfl, hstatus⟩ := hinput rfl
    rw [hstatus]
    exact ⟨nofun, nofun, fun _ => rfl, fun _ => rfl⟩
  -- S, Z and C, and OV for two positions
  | rlc _ n | sllc _ n | rrc _ n | sarc _ n =>
    cases n with
    | one =>
      obtain ⟨-, rfl⟩ := next_of_afterSdbd (dbl := s.dbl) h
      exact ⟨nofun, nofun, nofun, fun _ => rfl⟩
    | two => exact ⟨nofun, nofun, nofun, nofun⟩
  -- C
  | clrc | setc =>
    obtain ⟨-, rfl⟩ := next_of_afterSdbd (dbl := s.dbl) h
    exact ⟨fun _ => rfl, fun _ => rfl, nofun, fun _ => rfl⟩
  -- none
  | mvi _ _ | mvii _ _ | mviAt _ _ | pulr _ =>
    obtain ⟨v, u, rfl, hstatus⟩ := hinput rfl
    exact keepsBlankBits_of_eq hstatus.symm
  | mvo _ _ | mvoAt _ _ | mvoi _ | pshr _ =>
    rw [(output_next rfl h).rest]
    exact keepsBlankBits_of_eq rfl
  | undefJumpDe11 _ _ => exact (undefJumpDe11_no_next h).elim
  | hlt =>
    obtain ⟨-, hrest, -⟩ := hlt_next h
    rw [hrest]
    exact keepsBlankBits_of_eq rfl
  | bext _ _ _ =>
    obtain ⟨-, u, -, rfl, hstatus⟩ := bext_next h
    exact keepsBlankBits_of_eq hstatus
  | sdbd | eis | dis | tci | sin _ | nop _ | gswd _ | j _ | je _ | jd _ | jsr _ _ | jsre _ _ | jsrd _ _ =>
    obtain ⟨-, rfl⟩ := next_of_afterSdbd (dbl := s.dbl) h
    exact keepsBlankBits_of_eq rfl
  | _ =>
    obtain ⟨-, rfl⟩ := next_of_afterSdbd (dbl := s.dbl) h
    exact keepsBlankBits_of_eq (State.status_branchIf ..)

/-! The bus accesses -/

/-- The reads of a data input are those of the table. -/
theorem inputReads_eq {i : Instr} (hi : isDataInput i = true) (hwf : i.WellFormed) (h : exec i s = .next t) :
    inputReads s i = eventsOf s i := by
  have h6 {m : Reg} {k : Word → State → State} (h : s.inputIndirect m k = .next t) (hm : m = .r6) :
      s.dbl = false := by
    obtain ⟨hdbl, -⟩ | ⟨-, hne, -⟩ := State.inputIndirect_next.mp h
    · exact hdbl
    · exact (hne hm).elim
  cases i with
  | mviAt m _ | addAt m _ | subAt m _ | cmpAt m _ | andAt m _ | xorAt m _ => exact readsThrough_eq hwf (h6 h)
  | pulr _ => exact readsThrough_eq (m := .r6) rfl (h6 h)
  | mvi _ _ | mvii _ _ | add _ _ | addi _ _ | sub _ _ | subi _ _ | cmp _ _ | cmpi _ _ | and _ _ | andi _ _ | xor _ _
  | xori _ _ => rfl
  | _ => cases hi

/-- The event log grows by the accesses of the table, or the pulse or selector of the instruction (R73, R74, R82). -/
theorem exec_events {i : Instr} (hwf : i.WellFormed) (h : exec i s = .next t) :
    t.events = eventsOf s i ++ s.events := by
  have hinput (hi : isDataInput i = true) : t.events = eventsOf s i ++ s.events := by
    rw [← inputReads_eq hi hwf h]
    obtain ⟨v, u, rfl, hfound⟩ := dataInput_next hi h
    rw [(onlyRegsStatus_inputOperation i v u).rest]
    exact hfound.events
  cases i with
  | mvi _ _ | mvii _ _ | mviAt _ _ | pulr _ | add _ _ | addi _ _ | addAt _ _ | sub _ _ | subi _ _ | subAt _ _
  | cmp _ _ | cmpi _ _ | cmpAt _ _ | and _ _ | andi _ _ | andAt _ _ | xor _ _ | xori _ _ | xorAt _ _ =>
    exact hinput rfl
  | mvo _ _ =>
    obtain ⟨-, rfl⟩ := next_of_afterSdbd (dbl := s.dbl) h
    exact State.directWrite_events ..
  | mvoAt _ _ | mvoi _ | pshr _ => exact (outputDone_indirect h).2
  | undefJumpDe11 _ _ => exact (undefJumpDe11_no_next h).elim
  | hlt =>
    obtain ⟨-, hrest, -⟩ := hlt_next h
    rw [hrest]
    rfl
  | sdbd | eis | dis | tci | sin _ | je _ | jd _ | jsre _ _ | jsrd _ _ =>
    obtain ⟨-, rfl⟩ := next_of_afterSdbd (dbl := s.dbl) h
    rfl
  | bext _ _ _ =>
    obtain ⟨-, u, hu, rfl, -⟩ := bext_next h
    rw [hu.rest]
    rfl
  | _ =>
    rw [(internal_next rfl h).2.rest]
    rfl

end Sys2Proof.Machine
end

section
/-! PROOFS. The boundary (spec/60_exceptions.md R351 to R363; spec/70_reset_and_hazards.md R390 to R396): what attending
to the pins comes to, case by case, and the initialization, stops, grants and interrupts at a boundary. -/

namespace Sys2Proof.Machine

open Sys2Proof.Claims

variable {s t u : State}

/-! What attending to the pins comes to, in the order in which the requests are looked at (R351, R354, R390) -/

/-- The state with the bus taken back. -/
def State.busTaken (s : State) : State := { s with busReleased := false }

theorem State.busTaken_eq_self (h : s.busReleased = false) : s.busTaken = s := by
  rw [State.busTaken, ← h]

theorem not_syncLow_sample (hsync : s.syncLow = false) : ¬s.sample.syncLow = true := Bool.eq_false_iff.mp hsync

/-- What the initialization makes of a state: the program counter from the bus by one IAB, nothing pending, memory and
the platform as they were (R391 to R394, R396). -/
structure Initialized (s t : State) : Prop where
  pc : t.reg .r7 = s.plat.resetVector
  intff : t.intff = false
  dbl : t.dbl = false
  run : t.run = .running
  haltPending : t.haltPending = false
  busReleased : t.busReleased = false
  stopPending : t.stopPending = false
  boundaryOpen : t.boundaryOpen = false
  syncLow : t.syncLow = false
  mem : t.mem = s.mem
  plat : t.plat = s.plat
  env : t.env = s.env
  events : t.events = .iab s.plat.resetVector :: s.events

theorem attend_held (hmsync : s.sample.pins.msync = true) : s.attend = .acted s.sample.holdInactive := by
  rw [State.attend, if_pos hmsync]

section
variable (hmsync : s.sample.pins.msync = false)
include hmsync

theorem attend_initialized (hsync : s.syncLow = true) : ∃ t, s.attend = .acted t ∧ Initialized s.sample t := by
  rw [State.attend, if_neg (Bool.eq_false_iff.mp hmsync), if_pos (show s.sample.syncLow = true from hsync)]
  exact ⟨_, rfl, rfl, rfl, rfl, rfl, rfl, rfl, rfl, rfl, rfl, rfl, rfl, rfl, rfl⟩

variable (hsync : s.syncLow = false)
include hsync

theorem attend_stopped (hrun : s.run = .stopped) : s.attend = .acted s.sample.whileStopped := by
  rw [State.attend, if_neg (Bool.eq_false_iff.mp hmsync), if_neg (not_syncLow_sample hsync),
    if_pos (show s.sample.run = .stopped from hrun)]

variable (hrun : s.run = .running)
include hrun

theorem attend_released (hreleased : s.busReleased = true) (hbusrq : s.sample.pins.busrq = true) :
    s.attend = .acted s.sample.grantBus := by
  have hstopped : ¬s.sample.run = .stopped := fun h => by rw [show s.sample.run = s.run from rfl, hrun] at h; cases h
  have hgrant : (s.sample.busReleased && s.sample.pins.busrq) = true := by rw [hbusrq, Bool.and_true]; exact hreleased
  rw [State.attend, if_neg (Bool.eq_false_iff.mp hmsync), if_neg (not_syncLow_sample hsync), if_neg hstopped,
    if_pos hgrant]

/-- With the bus owned or asked for no longer, the CPU has it back, and an open boundary is examined. -/
theorem attend_running (howned : s.busReleased = false ∨ s.sample.pins.busrq = false) :
    s.attend = if s.boundaryOpen then s.sample.busTaken.examine else .fetch s.sample.busTaken := by
  have hstopped : ¬s.sample.run = .stopped := fun h => by rw [show s.sample.run = s.run from rfl, hrun] at h; cases h
  have hgrant : ¬(s.sample.busReleased && s.sample.pins.busrq) = true := by
    rw [Bool.and_eq_true, not_and_or, Bool.not_eq_true, Bool.not_eq_true]
    exact howned
  rw [State.attend, if_neg (Bool.eq_false_iff.mp hmsync), if_neg (not_syncLow_sample hsync), if_neg hstopped,
    if_neg hgrant]
  rfl

/-- A CPU that owns the bus goes on in the sampled state itself. -/
theorem attend_owned (howned : s.busReleased = false) :
    s.attend = if s.boundaryOpen then s.sample.examine else .fetch s.sample := by
  have hbus : s.sample.busTaken = s.sample := State.busTaken_eq_self howned
  rw [attend_running hmsync hsync hrun (.inl howned), hbus]

end

/-! The examination at an open boundary (R354) -/

theorem examine_halt (hhalt : s.haltPending = true) :
    s.examine = .acted { s.stop.emit .nact with haltPending := false } := by
  rw [State.examine, if_pos hhalt]

section
variable (hhalt : s.haltPending = false)
include hhalt

theorem examine_stop (hstop : s.stopPending = true) :
    s.examine = .acted { s.stop.emit .nact with stopPending := false } := by
  rw [State.examine, if_neg (Bool.eq_false_iff.mp hhalt), if_pos hstop]

variable (hstop : s.stopPending = false)
include hstop

theorem examine_busrq (hbusrq : s.pins.busrq = true) : s.examine = .acted s.grantBus := by
  rw [State.examine, if_neg (Bool.eq_false_iff.mp hhalt), if_neg (Bool.eq_false_iff.mp hstop), if_pos hbusrq]

theorem examine_interrupt (hbusrq : s.pins.busrq = false) :
    s.examine = if s.interruptRequested then .acted s.takeInterrupt else .fetch s := by
  rw [State.examine, if_neg (Bool.eq_false_iff.mp hhalt), if_neg (Bool.eq_false_iff.mp hstop),
    if_neg (Bool.eq_false_iff.mp hbusrq)]

end

/-! The same, read from what came of it -/

/-- What attending to the pins comes to in the sampled state `s`. -/
inductive Attends (s : State) : Attention → Prop where
  | held (hmsync : s.pins.msync = true) : Attends s (.acted s.holdInactive)
  | initialized {t : State} (hmsync : s.pins.msync = false) (hsync : s.syncLow = true) (h : Initialized s t) :
    Attends s (.acted t)
  | waiting (hsync : s.syncLow = false) (hrun : s.run = .stopped) : Attends s (.acted s.whileStopped)
  | granting (hsync : s.syncLow = false) (hrun : s.run = .running) (hreleased : s.busReleased = true) :
    Attends s (.acted s.grantBus)
  | halted (hsync : s.syncLow = false) (hopen : s.boundaryOpen = true) (hhalt : s.haltPending = true) :
    Attends s (.acted { s.busTaken.stop.emit .nact with haltPending := false })
  | stopped (hsync : s.syncLow = false) (hopen : s.boundaryOpen = true) (hhalt : s.haltPending = false) :
    Attends s (.acted { s.busTaken.stop.emit .nact with stopPending := false })
  | granted (hsync : s.syncLow = false) (hrun : s.run = .running) (hopen : s.boundaryOpen = true)
    (hhalt : s.haltPending = false) : Attends s (.acted s.busTaken.grantBus)
  | interrupted (hsync : s.syncLow = false) (hrun : s.run = .running) (hopen : s.boundaryOpen = true)
    (hhalt : s.haltPending = false) : Attends s (.acted s.busTaken.takeInterrupt)
  | fetching (hsync : s.syncLow = false) (hrun : s.run = .running) : Attends s (.fetch s.busTaken)

theorem attends_examine (hsync : s.syncLow = false) (hrun : s.run = .running) (hopen : s.boundaryOpen = true) :
    Attends s s.busTaken.examine := by
  cases hhalt : s.haltPending with
  | true =>
    rw [examine_halt (s := s.busTaken) hhalt]
    exact .halted hsync hopen hhalt
  | false =>
    cases hstop : s.stopPending with
    | true =>
      rw [examine_stop (s := s.busTaken) hhalt hstop]
      exact .stopped hsync hopen hhalt
    | false =>
      cases hbusrq : s.pins.busrq with
      | true =>
        rw [examine_busrq (s := s.busTaken) hhalt hstop hbusrq]
        exact .granted hsync hrun hopen hhalt
      | false =>
        rw [examine_interrupt (s := s.busTaken) hhalt hstop hbusrq]
        split
        · exact .interrupted hsync hrun hopen hhalt
        · exact .fetching hsync hrun

/-- Attending to the pins comes to one of these. -/
theorem attends_attend (s : State) : Attends s.sample s.attend := by
  cases hmsync : s.sample.pins.msync with
  | true =>
    rw [attend_held hmsync]
    exact .held hmsync
  | false =>
    cases hsync : s.syncLow with
    | true =>
      obtain ⟨t, hattend, h⟩ := attend_initialized hmsync hsync
      rw [hattend]
      exact .initialized hmsync hsync h
    | false =>
      cases hrun : s.run with
      | stopped =>
        rw [attend_stopped hmsync hsync hrun]
        exact .waiting hsync hrun
      | running =>
        by_cases howned : s.busReleased = false ∨ s.sample.pins.busrq = false
        · rw [attend_running hmsync hsync hrun howned]
          split
          · exact attends_examine hsync hrun ‹_›
          · exact .fetching hsync hrun
        · rw [not_or, Bool.not_eq_false, Bool.not_eq_false] at howned
          rw [attend_released hmsync hsync hrun howned.1 howned.2]
          exact .granting hsync hrun howned.1

end Sys2Proof.Machine
end

section
/-! PROOFS. The boundary, continued: the initialization (spec/70_reset_and_hazards.md R390 to R396), the requests of
spec/60_exceptions.md R344 to R363, and what a step without an instruction leaves alone. -/

namespace Sys2Proof.Machine

open Sys2Proof.Claims

variable {s t u : State}

theorem step_of_acted (h : s.attend = .acted t) : step s = .next t := by rw [step, h]

theorem step_of_fetch (h : s.attend = .fetch u) : step s = runInstruction u := by rw [step, h]

/-- Settles O1: the invariant asks for the fixed values of the reset state alone. -/
theorem resetMeetsInvariant : Obligations.ResetMeetsInvariant where
  memory := rfl
  released := nofun
  boundary := nofun
  stopped := nofun
  sync := nofun

/-! The sample that a step takes -/

section
variable {p : Pins} {rest : List Pins} (henv : s.env = p :: rest)
include henv

theorem pins_sample : s.sample.pins = p := by rw [State.sample, henv, List.headD_cons]

/-- A stop edge is recorded while the CPU runs (R361). -/
theorem sample_running (hrun : s.run = .running) :
    s.sample = { s with pins := p, env := rest, stopPending := s.stopPending || p.stpst } := by
  rw [State.sample, henv, hrun]
  rfl

theorem sample_stopped (hrun : s.run = .stopped) : s.sample = { s with pins := p, env := rest } := by
  rw [State.sample, henv, hrun, show (Run.stopped == Run.running) = false from rfl, Bool.false_and, Bool.or_false]
  rfl

/-- A running CPU to which no stop edge comes keeps what was recorded. -/
theorem sample_noEdge (hrun : s.run = .running) (hedge : p.stpst = false) :
    s.sample = { s with pins := p, env := rest } := by
  rw [sample_running henv hrun, hedge, Bool.or_false]

end

/-- With no sample left the pins are quiet. -/
theorem sample_nil (henv : s.env = []) : s.sample = { s with pins := .quiet } := by
  have hhead : s.env.headD .quiet = .quiet := by rw [henv]; rfl
  have htail : s.env.tail = s.env := by rw [henv]; rfl
  rw [State.sample, hhead, htail, show Pins.quiet.stpst = false from rfl, Bool.and_false, Bool.or_false]

/-! Held, initialized, stopped, interrupted (R344, R354, R361, R390) -/

/-- Settles O3: MSYNC* comes before everything, and the initialization after it before everything else. -/
theorem initializationSequence : Obligations.InitializationSequence := by
  unfold Obligations.InitializationSequence
  constructor
  · intro s p rest henv hmsync
    refine ⟨_, step_of_acted (attend_held ((congrArg Pins.msync (pins_sample henv)).trans hmsync)), ?_⟩
    rw [State.sample, henv]
    rfl
  · intro s hsync hmsync
    obtain ⟨t, hattend, h⟩ := attend_initialized hmsync hsync
    exact ⟨t, step_of_acted hattend, h.pc, h.intff, h.dbl, h.run, h.haltPending, h.busReleased, h.stopPending,
      h.boundaryOpen, h.syncLow, h.mem, h.plat, h.env, h.events⟩

/-- Settles O47: the examination comes to the interrupt last. -/
theorem interruptAcceptance : Obligations.InterruptAcceptance := by
  unfold Obligations.InterruptAcceptance
  intro s p rest henv hrun hopen howned hsync hhalt hstop hmsync hstpst hbusrq u
  have hsample : s.sample = u := sample_noEdge henv hrun hstpst
  have hattend : s.attend = if u.interruptRequested then .acted u.takeInterrupt else .fetch u := by
    rw [attend_owned (by rw [hsample]; exact hmsync) hsync hrun howned, if_pos hopen, hsample]
    exact examine_interrupt (s := u) hhalt hstop hbusrq
  have hrequested : u.interruptRequested = true ↔ p.intr = true ∨ (p.intrm = true ∧ s.intff = true) := by
    rw [State.interruptRequested, Bool.or_eq_true, Bool.and_eq_true]
  exact ⟨fun h => step_of_acted (hattend.trans (if_pos (hrequested.mpr h))),
    fun h => step_of_fetch (hattend.trans (if_neg (mt hrequested.mp h)))⟩

/-- Settles O50: a closed boundary is not examined. -/
theorem closedBoundaryGoesOn : Obligations.ClosedBoundaryGoesOn := by
  unfold Obligations.ClosedBoundaryGoesOn
  intro s p rest henv hrun hclosed howned hsync hmsync
  have hsample := sample_running henv hrun
  refine step_of_fetch ?_
  rw [attend_owned (by rw [hsample]; exact hmsync) hsync hrun howned, if_neg (Bool.eq_false_iff.mp hclosed), hsample]

/-- The stopped CPU goes on waiting, or runs with its boundary closed after a stop edge (R361, R362). -/
theorem whileStopped_eq (s : State) :
    s.whileStopped = { s with run := if s.pins.stpst then .running else s.run
                              boundaryOpen := !s.pins.stpst && s.boundaryOpen
                              events := .nact :: s.events } := by
  rw [State.whileStopped]
  cases s.pins.stpst <;> rfl

/-- Settles O51: the recorded edge comes before every other request, and the stopped CPU looks at the edge alone. -/
theorem stopAndStoppedMode : Obligations.StopAndStoppedMode := by
  unfold Obligations.StopAndStoppedMode
  refine ⟨?_, ?_, ?_⟩
  · intro s p rest henv hrun hopen howned hsync hhalt hmsync hedge
    have hsample := sample_running henv hrun
    have hstop : (s.stopPending || p.stpst) = true := by rw [Bool.or_eq_true]; exact hedge
    refine step_of_acted ?_
    rw [attend_owned (by rw [hsample]; exact hmsync) hsync hrun howned, if_pos hopen, hsample]
    exact examine_stop hhalt hstop
  · intro s p rest henv hrun hsync hmsync
    have hsample := sample_stopped henv hrun
    have hstep : step s = .next s.sample.whileStopped :=
      step_of_acted (attend_stopped (by rw [hsample]; exact hmsync) hsync hrun)
    rw [hstep, hsample, whileStopped_eq]
    constructor <;> intro hstpst <;> rw [hstpst] <;> rfl
  · intro s hrun hsync henv
    have hsample := sample_nil henv
    rw [step_of_acted (attend_stopped (by rw [hsample]; rfl) hsync hrun), hsample, whileStopped_eq]
    rfl

/-! The writes of other masters (R84, R355) -/

/-- A store changes no word but the one at its address. -/
theorem State.store_readWord_other {a b : Word} (h : b ≠ a) (v : Word) :
    (s.store a v).mem.readWord b = s.mem.readWord b := by
  rw [State.store_mem]
  split
  · exact Memory.readWord_writeWord_other h _ _
  · rfl

/-- Writes elsewhere keep a word. -/
theorem dmaWrites_readWord_other {a : Word} (ws : List (Word × Word)) (s : State) (h : ∀ w ∈ ws, w.1 ≠ a) :
    (s.dmaWrites ws).mem.readWord a = s.mem.readWord a := by
  induction ws generalizing s with
  | nil => rfl
  | cons w ws ih =>
    obtain ⟨b, v⟩ := w
    have hne : a ≠ b := (h (b, v) List.mem_cons_self).symm
    rw [State.dmaWrites, ih _ fun w hw => h w (List.mem_cons_of_mem _ hw)]
    exact State.store_readWord_other hne v

/-- No write lands where there is no read/write memory. -/
theorem dmaWrites_readWord_noRam {a : Word} (ws : List (Word × Word)) (s : State) (h : s.plat.kindOf a ≠ .ram) :
    (s.dmaWrites ws).mem.readWord a = s.mem.readWord a := by
  induction ws generalizing s with
  | nil => rfl
  | cons w ws ih =>
    obtain ⟨b, v⟩ := w
    have hplat : (s.store b v).plat = s.plat := by rw [State.store_eq]
    rw [State.dmaWrites, ih _ (by rw [hplat]; exact h)]
    by_cases haddress : b = a
    · rw [(storedWord_store s b v).noRam (by rw [haddress]; exact h)]
    · exact State.store_readWord_other (Ne.symm haddress) v

/-- Writes keep the cells that are of none of their words. -/
theorem dmaWrites_readByte_other {k : Nat} (ws : List (Word × Word)) (s : State)
    (h : ∀ w ∈ ws, k ≠ 2 * w.1.toNat ∧ k ≠ 2 * w.1.toNat + 1) :
    (s.dmaWrites ws).mem.readByte k = s.mem.readByte k := by
  induction ws generalizing s with
  | nil => rfl
  | cons w ws ih =>
    obtain ⟨b, v⟩ := w
    obtain ⟨hlow, hhigh⟩ := h (b, v) List.mem_cons_self
    rw [State.dmaWrites, ih _ fun w hw => h w (List.mem_cons_of_mem _ hw)]
    exact (storedWord_store s b v).others k hlow hhigh

/-- The last write listed for an address of read/write memory is what is there after, as far as it has room. -/
theorem dmaWrites_readWord_last {a v : Word} (earlier later : List (Word × Word)) (s : State)
    (hlast : ∀ w ∈ later, w.1 ≠ a) (hwf : s.mem.wf = true) (hram : s.plat.kindOf a = .ram) :
    ((s.dmaWrites (earlier ++ (a, v) :: later)).mem.readWord a).toNat =
      v.toNat % 2 ^ min 16 (s.plat.widthOf a) := by
  have hplat : (s.dmaWrites earlier).plat = s.plat := by rw [State.dmaWrites_eq]
  rw [State.dmaWrites_append, State.dmaWrites, dmaWrites_readWord_other later _ hlast, ← hplat]
  exact (storedWord_store (s.dmaWrites earlier) a v).value (hplat ▸ hram) (State.dmaWrites_wf earlier s hwf)

/-! The grant (R355) -/

theorem attend_busrq (hmsync : s.sample.pins.msync = false) (hsync : s.syncLow = false) (hrun : s.run = .running)
    (hopen : s.boundaryOpen = true) (hbusrq : s.sample.pins.busrq = true)
    (hfirst : s.busReleased = true ∨ (s.haltPending = false ∧ s.sample.stopPending = false)) :
    s.attend = .acted s.sample.grantBus := by
  cases hreleased : s.busReleased with
  | true => exact attend_released hmsync hsync hrun hreleased hbusrq
  | false =>
    obtain ⟨hhalt, hstop⟩ := hfirst.resolve_left (Bool.eq_false_iff.mp hreleased)
    rw [attend_owned hmsync hsync hrun hreleased, if_pos hopen]
    exact examine_busrq (s := s.sample) hhalt hstop hbusrq

/-- The bus that was released is taken back when it is asked for no longer, before anything else is looked at. -/
theorem attend_busTaken (hrun : s.run = .running) (hmsync : s.sample.pins.msync = false)
    (hbusrq : s.sample.pins.busrq = false) : s.attend = s.busTaken.attend := by
  cases hsync : s.syncLow with
  | true =>
    have hmsync' : ¬s.busTaken.sample.pins.msync = true := Bool.eq_false_iff.mp hmsync
    rw [State.attend, State.attend, if_neg (Bool.eq_false_iff.mp hmsync), if_neg hmsync',
      if_pos (show s.sample.syncLow = true from hsync), if_pos (show s.busTaken.sample.syncLow = true from hsync)]
    rfl
  | false =>
    rw [attend_running hmsync hsync hrun (.inr hbusrq),
      attend_running (s := s.busTaken) hmsync hsync hrun (.inr hbusrq)]
    rfl

/-- Settles O52: the grant comes before the interrupt, its writes are made in order, and the bus taken back leaves the
boundary to be examined. -/
theorem busGrantBeforeInterrupt : Obligations.BusGrantBeforeInterrupt := by
  unfold Obligations.BusGrantBeforeInterrupt
  constructor
  · intro s p rest henv hrun hopen hsync hmsync hbusrq hfirst
    have hsample := sample_running henv hrun
    have hfirst' : s.busReleased = true ∨ (s.haltPending = false ∧ s.sample.stopPending = false) :=
      hfirst.imp_right fun ⟨hstpst, hhalt, hstop⟩ => ⟨hhalt, by rw [hsample]; simp [hstop, hstpst]⟩
    have hattend := attend_busrq (by rw [hsample]; exact hmsync) hsync hrun hopen (by rw [hsample]; exact hbusrq) hfirst'
    rw [hsample] at hattend
    refine ⟨_, step_of_acted hattend, State.grantBus_eq _, ?_, fun a h => dmaWrites_readWord_noRam p.dma _ h,
      fun k h => dmaWrites_readByte_other p.dma _ h, ?_⟩
    · intro earlier later a v hdma hlast hwf hram
      rw [State.grantBus, hdma]
      exact dmaWrites_readWord_last earlier later _ hlast hwf hram
    · intro hdma
      rw [State.grantBus, hdma]
      rfl
  · intro s p rest henv hrun hopen hreleased hmsync hbusrq
    have hpins := pins_sample henv
    rw [step, attend_busTaken hrun (by rw [hpins]; exact hmsync) (by rw [hpins]; exact hbusrq)]
    rfl

/-! What attending to the pins leaves alone (R9 of spec/00_scope.md, R43, R45) -/

/-- Only MSYNC* and the initialization after it write the status bits and INTFF. -/
theorem Attends.status_intff (h : Attends s (.acted t)) (hsync : s.syncLow = false) (hmsync : s.pins.msync = false) :
    t.status = s.status ∧ t.intff = s.intff := by
  cases h with
  | held hlow => rw [hmsync] at hlow; cases hlow
  | initialized _ hdue => rw [hsync] at hdue; cases hdue
  | waiting => rw [whileStopped_eq]; exact ⟨rfl, rfl⟩
  | granting | granted => rw [State.grantBus_eq]; exact ⟨rfl, rfl⟩
  | interrupted => rw [State.takeInterrupt_eq]; exact ⟨rfl, rfl⟩
  | halted | stopped => exact ⟨rfl, rfl⟩

theorem State.plat_grantBus (s : State) : s.grantBus.plat = s.plat := by rw [State.grantBus_eq]

theorem State.plat_takeInterrupt (s : State) : s.takeInterrupt.plat = s.plat := by rw [State.takeInterrupt_eq]

theorem Attends.plat (h : Attends s (.acted t)) : t.plat = s.plat := by
  cases h with
  | waiting => rw [whileStopped_eq]
  | granting | granted => exact State.plat_grantBus _
  | interrupted => exact State.plat_takeInterrupt _
  | initialized _ _ h => exact h.plat
  | held | halted | stopped => rfl

/-- Settles O53: the rows of the table for the instructions, and nothing between them. -/
theorem statusBitsWrittenOnlyByTable : Obligations.StatusBitsWrittenOnlyByTable := by
  unfold Obligations.StatusBitsWrittenOnlyByTable
  constructor
  · intro i s t h
    obtain ⟨hs, hz, hc, hov⟩ := exec_status h
    exact ⟨hs, hz, hc, hov⟩
  · intro s t h hsync hmsync
    exact ((h ▸ attends_attend s).status_intff hsync hmsync).1

/-- Settles O54: the field of the frame that speaks of INTFF, and nothing between the instructions. -/
theorem interruptEnableWrittenOnlyBy : Obligations.InterruptEnableWrittenOnlyBy := by
  unfold Obligations.InterruptEnableWrittenOnlyBy
  constructor
  · intro i s t h
    rw [(exec_frame h).intff]
    cases i <;> rfl
  · intro s t h hsync hmsync
    exact ((h ▸ attends_attend s).status_intff hsync hmsync).2

/-- The instruction of a step is fetched in the sampled state, with the bus taken back. -/
theorem fetch_of_attend (h : s.attend = .fetch u) :
    u = s.sample.busTaken ∧ s.syncLow = false ∧ s.run = .running := by
  have hattends := attends_attend s
  rw [h] at hattends
  cases hattends with
  | fetching hsync hrun => exact ⟨rfl, hsync, hrun⟩

/-- A whole instruction, from before its fetch to after its end, does not change the parameters. -/
theorem runInstruction_plat (h : runInstruction s = .next t) : t.plat = s.plat := by
  obtain ⟨u, hexec, rfl⟩ := runInstruction_next.mp h
  rw [State.finish_eq, (exec_frame hexec).rest, State.fetch_state]

/-- Settles O59: nothing between the instructions and no instruction writes the parameters. -/
theorem platformNeverChanges : Obligations.PlatformNeverChanges := by
  unfold Obligations.PlatformNeverChanges
  constructor
  · intro s t h
    obtain hacted | ⟨u, hfetch, hrun⟩ := step_next.mp h
    · exact (hacted ▸ attends_attend s).plat
    · rw [runInstruction_plat hrun, (fetch_of_attend hfetch).1]
      rfl
  · intro i s t h
    rw [(exec_frame h).rest]
    exact ⟨rfl, rfl, rfl, rfl, rfl, rfl, rfl⟩

end Sys2Proof.Machine
end

section
/-! PROOFS. The fetch (spec/10_state.md R33; spec/20_memory.md R82; spec/30_encoding.md R121): which words it reads, by
which bus accesses, and the instruction they are. -/

namespace Sys2Proof.Machine

open Sys2Proof.Claims

variable {s t u : State}

/-! What the fetch reads -/

/-- The word that the fetch finds `k` words after the program counter, when it has read `k`. -/
def State.wordAt (s : State) (k : Nat) : Word :=
  { s with oracle := s.oracle + k }.busValue (s.pc + BitVec.ofNat 16 k)

/-- The instruction that the fetch finds. -/
def State.fetched (s : State) : Instr := decode s.dbl (s.wordAt 0) (s.wordAt 1) (s.wordAt 2)

/-- The bus accesses of a fetch in `n` words, the last first: BAR, NACT, DTB for a word; after the first its low bits
on EBCA and NACT; ADAR and NACT for a second word that is a direct address (R82; log 17). -/
def fetchReads (pc : Word) (n : Nat) (direct : Bool) (w1 w2 w3 : Word) : List Event :=
  (if n = 3 then [.dtb w3, .nact, .bar (pc + 2)] else []) ++
    (if n = 1 then [] else if direct then [.nact, .adar w2, .nact, .bar (pc + 1)] else [.dtb w2, .nact, .bar (pc + 1)]) ++
    [.nact, .select (w1.setWidth 4), .dtb w1, .nact, .bar pc]

theorem bits_zero_four (w : Word) : bits w 0 4 = w.setWidth 4 := by
  apply BitVec.eq_of_toNat_eq
  simp [bits]

theorem Regs.set_set_same (x : Regs) (r : Reg) (v w : Word) : (x.set r v).set r w = x.set r w := by
  cases r <;> rfl

/-- A direct address is the second of two words. -/
theorem fetchLength_of_directMode {dbl : Bool} {w1 : Word} (h : directMode w1 = true) : fetchLength dbl w1 = 2 := by
  rw [directMode_eq, decide_eq_true_eq] at h
  obtain ⟨hop, hmode⟩ := h
  rw [fetchLength_eq, instructionLength_eq, if_neg (by omega), if_neg (by omega), if_neg (by omega),
    if_neg (by omega), if_pos hmode]

/-- The state in which the fetch has read `k` words, by the accesses `accesses`. -/
def State.passed (s : State) (k : Nat) (accesses : List Event) : State :=
  { s with
    regs := s.regs.set .r7 (s.pc + BitVec.ofNat 16 k)
    oracle := s.oracle + k
    events := accesses ++ s.events }

theorem State.wordAt_zero (s : State) : s.wordAt 0 = s.busValue s.pc := by
  rw [State.wordAt, Nat.add_zero, BitVec.add_zero]

theorem State.fetchWord_first (s : State) :
    s.fetchWord = (s.wordAt 0, s.passed 1 [.dtb (s.wordAt 0), .nact, .bar s.pc]) := by
  rw [State.wordAt_zero]
  exact Prod.ext rfl s.fetchWord_state

theorem State.setPc_passed (s : State) (k : Nat) (accesses : List Event) :
    (s.passed k accesses).regs.set .r7 ((s.passed k accesses).pc + 1) =
      s.regs.set .r7 (s.pc + BitVec.ofNat 16 (k + 1)) := by
  rw [State.passed, Regs.set_set_same, BitVec.ofNat_add, ← BitVec.add_assoc]
  rfl

theorem State.fetchWord_passed (s : State) (k : Nat) (accesses : List Event) :
    (s.passed k accesses).fetchWord =
      (s.wordAt k, s.passed (k + 1) (.dtb (s.wordAt k) :: .nact :: .bar (s.pc + BitVec.ofNat 16 k) :: accesses)) := by
  refine Prod.ext rfl ?_
  rw [State.fetchWord_state, State.setPc_passed]
  rfl

theorem State.fetchAddress_passed (s : State) (k : Nat) (accesses : List Event) :
    (s.passed k accesses).fetchAddress = (s.wordAt k, s.passed (k + 1)
      (.nact :: .adar (s.wordAt k) :: .nact :: .bar (s.pc + BitVec.ofNat 16 k) :: accesses)) := by
  refine Prod.ext rfl ?_
  rw [State.fetchAddress_state, State.setPc_passed]
  rfl

theorem State.latchInstruction_passed (s : State) (k : Nat) (accesses : List Event) (w : Word) :
    (s.passed k accesses).latchInstruction w = s.passed k (.nact :: .select (w.setWidth 4) :: accesses) := by
  rw [State.latchInstruction_state, bits_zero_four]
  rfl

/-- The instruction found, and the state after as many words as its first word calls for. -/
theorem State.fetch_eq (s : State) :
    s.fetch = (s.fetched, s.passed (fetchLength s.dbl (s.wordAt 0))
      (fetchReads s.pc (fetchLength s.dbl (s.wordAt 0)) (directMode (s.wordAt 0)) (s.wordAt 0) (s.wordAt 1)
        (s.wordAt 2))) := by
  rw [State.fetch, State.fetchWord_first]
  simp only [State.latchInstruction_passed]
  obtain hn | hn | hn := fetchLength_range s.dbl (s.wordAt 0)
  · simp only [hn, State.fetched]
    rw [decode_one hn 0 (s.wordAt 1), decode_two (by omega) (s.wordAt 1) 0 (s.wordAt 2)]
    rfl
  · simp only [hn, State.fetched]
    rw [decode_two (by omega) (s.wordAt 1) (s.wordAt 2) 0]
    cases directMode (s.wordAt 0) with
    | true => rw [if_pos rfl, State.fetchAddress_passed]; rfl
    | false => rw [if_neg Bool.false_ne_true, State.fetchWord_passed]; rfl
  · have hdirect : directMode (s.wordAt 0) ≠ true := fun h => by
      have := fetchLength_of_directMode (dbl := s.dbl) h
      omega
    simp only [hn, State.fetched, State.fetchWord_passed, Bool.eq_false_iff.mpr hdirect]
    rfl

/-- What is fetched has the form that its first word announces. -/
theorem State.fetched_hasForm (s : State) :
    HasForm s.dbl (fetchLength s.dbl (s.wordAt 0)) (directMode (s.wordAt 0)) s.fetched :=
  decode_hasForm s.dbl (s.wordAt 0) (s.wordAt 1) (s.wordAt 2)

end Sys2Proof.Machine
end

section
/-! PROOFS. A whole instruction: when it has a meaning and what it is run in (spec/10_state.md R33), where it ends
(spec/60_exceptions.md R351, R352, R360), and its cycles (spec/70_reset_and_hazards.md R400). -/

namespace Sys2Proof.Machine

open Sys2Proof.Claims

variable {s t u : State}

theorem State.fetch_dbl (s : State) : s.fetch.2.dbl = s.dbl := by rw [State.fetch_state]

/-- Settles O12: what is fetched is well-formed, so that it is refused where it is unsupported and nowhere else. -/
theorem stepGoesOnUnlessUnsupported : Obligations.StepGoesOnUnlessUnsupported := by
  unfold Obligations.StepGoesOnUnlessUnsupported
  intro s
  have hsupported (u : State) : (∃ t, runInstruction u = .next t) ↔ u.fetch.1.supported u.dbl = true := by
    rw [supported_iff, ← u.fetch_dbl, ← (exec_refusedFor u.fetch.1 u.fetch.2).next_iff]
    simp only [runInstruction_next]
    constructor
    · rintro ⟨t, v, hexec, -⟩
      exact ⟨v, hexec⟩
    · rintro ⟨v, hexec⟩
      exact ⟨_, v, hexec, rfl⟩
  cases hattend : s.attend with
  | acted t => exact ⟨fun _ _ h => (nomatch h), fun _ => ⟨t, step_of_acted hattend⟩⟩
  | fetch u =>
    rw [State.CanStep, step_of_fetch hattend, hsupported]
    exact ⟨fun h _ hu => Attention.fetch.inj hu ▸ h, fun h => h u rfl⟩

/-! What a quiet step runs -/

theorem attend_quiet (hquiet : Quiet s) : s.attend = .fetch { s with pins := .quiet } := by
  have hsample := sample_nil hquiet.silent
  rw [attend_owned (by rw [hsample]; rfl) hquiet.free hquiet.running hquiet.owned, hsample]
  split
  · obtain ⟨hhalt, hstop⟩ := hquiet.noHalt ‹_›
    exact examine_interrupt (s := { s with pins := .quiet }) hhalt hstop rfl
  · rfl

/-- Plain memory answers the fetch with its words. -/
theorem wordAt_plain (hplain : PlainMemory s) (k : Nat) :
    s.wordAt k = s.mem.readWord (s.pc + BitVec.ofNat 16 k) :=
  busValue_plain (s := { s with oracle := s.oracle + k }) hplain _

theorem runInstruction_of_refused {r : Refusal} (h : exec s.fetch.1 s.fetch.2 = .refused r) :
    runInstruction s = .refused r := by
  rw [runInstruction, h]

/-- Settles O9: the fetch in plain memory, whose second word is a direct address where the instruction has one. -/
theorem stepRunsDecodedInstruction : Obligations.StepRunsDecodedInstruction := by
  unfold Obligations.StepRunsDecodedInstruction
  intro s hquiet hplain pc w1 w2 w3 n i reads u
  have hword (k : Nat) : ({ s with pins := .quiet } : State).wordAt k = s.mem.readWord (pc + BitVec.ofNat 16 k) :=
    wordAt_plain (s := { s with pins := .quiet }) hplain k
  have h1 : ({ s with pins := .quiet } : State).wordAt 0 = w1 := (hword 0).trans (by rw [BitVec.add_zero])
  have hform : HasForm s.dbl n (directMode w1) i := decode_hasForm s.dbl w1 w2 w3
  have hfetch : ({ s with pins := .quiet } : State).fetch = (i, u) := by
    rw [State.fetch_eq, State.fetched, h1, hword 1, hword 2]
    simp only [u, reads, hform.addressed]
    rfl
  have hstep := step_of_fetch (attend_quiet hquiet)
  refine ⟨hform.wellFormed, fun t h => ?_, fun r h => ?_⟩
  · rw [hstep, runInstruction_next, hfetch]
    exact ⟨t, h, rfl⟩
  · rw [hstep]
    exact runInstruction_of_refused (by rw [hfetch]; exact h)

/-! The end of an instruction -/

/-- HLT marks the stop due, or stops at once (R300). -/
theorem hlt_halting (h : exec .hlt s = .next t) :
    (s.plat.hltAfterNext = true ∧ t.run = s.run ∧ t.haltPending = true) ∨
    (s.plat.hltAfterNext = false ∧ t.run = .stopped ∧ t.haltPending = s.haltPending) := by
  obtain ⟨hdbl, -⟩ := hlt_next h
  rw [exec_hlt hdbl, Host.Outcome.next.injEq] at h
  subst h
  cases s.plat.hltAfterNext with
  | true => exact .inl ⟨rfl, rfl, rfl⟩
  | false => exact .inr ⟨rfl, rfl, rfl⟩

/-- No other instruction touches the run state or the pending halt. -/
theorem exec_running {i : Instr} (hi : i ≠ .hlt) (h : exec i s = .next t) :
    t.run = s.run ∧ t.haltPending = s.haltPending :=
  (exec_frame h).halting.resolve_right fun hhlt => hi hhlt.1

/-- A CPU that an instruction stops has no halt pending by it. -/
theorem exec_stopped {i : Instr} (h : exec i s = .next t) (hrun : s.run = .running) (hstopped : t.run = .stopped) :
    t.haltPending = s.haltPending := by
  by_cases hi : i = .hlt
  · subst hi
    obtain ⟨-, hkept, -⟩ | ⟨-, -, hpending⟩ := hlt_halting h
    · rw [hkept, hrun] at hstopped
      cases hstopped
    · exact hpending
  · exact (exec_running hi h).2

/-- But for HLT, the instructions that close the boundary are those that are not interruptable (R352). -/
theorem interruptable_eq {i : Instr} (h : i ≠ .hlt) (p : Platform) : i.interruptable p = !closesBoundary p i := by
  cases i with
  | hlt => contradiction
  | mvo _ _ | mvoAt _ _ | mvoi _ | pshr _ => exact (Bool.not_not _).symm
  | _ => rfl

/-- An interruptable instruction leaves D clear and no halt of its own pending. -/
theorem exec_interruptable {i : Instr} (h : exec i s = .next t) (hi : i.interruptable s.plat = true) :
    t.dbl = false ∧ t.haltPending = s.haltPending := by
  constructor
  · rw [(exec_frame h).dbl]
    exact decide_eq_false fun hsdbd => by subst hsdbd; cases hi
  · by_cases hhlt : i = .hlt
    · subst hhlt
      obtain ⟨hlater, -⟩ | ⟨-, -, hkept⟩ := hlt_halting h
      · rw [Instr.interruptable, hlater] at hi
        cases hi
      · exact hkept
    · exact (exec_running hhlt h).2

/-- Where HLT is interruptable it stops the CPU, so that no boundary opens after it. -/
theorem boundary_after {i : Instr} (h : exec i s = .next t) :
    (i.interruptable s.plat && t.run == .running) =
      (!closesBoundary s.plat i && decide (t.run = .running)) := by
  by_cases hi : i = .hlt
  · subst hi
    obtain ⟨hlater, -⟩ | ⟨-, hstopped, -⟩ := hlt_halting h
    · rw [Instr.interruptable, hlater]
      rfl
    · rw [hstopped]
      exact Bool.and_false _
  · rw [interruptable_eq hi]
    cases t.run <;> rfl

/-- Settles O10: a halt that was pending before the instruction stops the CPU after it, and else the boundary is the
instruction's. -/
theorem instructionEnds : Obligations.InstructionEnds := by
  unfold Obligations.InstructionEnds
  intro s t h
  obtain ⟨u, hexec, rfl⟩ := runInstruction_next.mp h
  have hhalt : s.fetch.2.haltPending = s.haltPending := by rw [State.fetch_state]
  have hplat : s.fetch.2.plat = s.plat := by rw [State.fetch_state]
  have hboundary := boundary_after hexec
  refine ⟨u, hexec, ?_⟩
  rw [State.finish_eq, hhalt, hboundary, hplat]
  refine ⟨rfl, fun hpending => ?_, fun hpending => ?_, rfl⟩
  · simp [hpending]
  · simp [hpending]

/-! The invariant -/

theorem State.Ok.sample (h : s.Ok) : s.sample.Ok := ⟨h.memory, h.released, h.boundary, h.stopped, h.sync⟩

theorem State.Ok.busTaken (h : s.Ok) : s.busTaken.Ok :=
  ⟨h.memory, fun h => absurd h Bool.false_ne_true, h.boundary, h.stopped, h.sync⟩

/-- What is done at a boundary keeps the invariant, whichever it is. -/
theorem Attends.ok (h : Attends s (.acted t)) (hok : s.Ok) : t.Ok := by
  obtain ⟨hmem, hreleased, hboundary, hstopped, hsync⟩ := hok
  cases h with
  | held =>
    exact ⟨hmem, nofun, fun hopen => ⟨rfl, (hboundary hopen).2⟩, nofun, fun _ => rfl⟩
  | initialized _ _ h =>
    exact ⟨h.mem ▸ hmem, fun hreleased => absurd (h.busReleased.symm.trans hreleased) Bool.false_ne_true,
      fun hopen => absurd (h.boundaryOpen.symm.trans hopen) Bool.false_ne_true, fun _ => h.haltPending,
      fun _ => h.intff⟩
  | waiting _ hrun =>
    have hclosed : s.boundaryOpen = false := Bool.eq_false_iff.mpr fun hopen => by
      rw [hrun] at hboundary
      cases (hboundary hopen).1
    have howned : s.busReleased = false := Bool.eq_false_iff.mpr fun h => by
      rw [hclosed] at hreleased
      cases hreleased h
    rw [whileStopped_eq]
    refine ⟨hmem, ?_, ?_, fun _ => hstopped hrun, hsync⟩
    · rw [howned]
      exact nofun
    · rw [hclosed, Bool.and_false]
      exact nofun
  | granting _ hrun hreleased' =>
    rw [State.grantBus_eq]
    exact ⟨State.grantBus_wf hmem, fun _ => hreleased hreleased', hboundary, hstopped, hsync⟩
  | granted _ hrun hopen =>
    rw [State.grantBus_eq]
    exact ⟨State.grantBus_wf (s := s.busTaken) hmem, fun _ => hopen, hboundary, hstopped, hsync⟩
  | halted => exact ⟨hmem, nofun, nofun, fun _ => rfl, hsync⟩
  | stopped _ _ hhalt => exact ⟨hmem, nofun, nofun, fun _ => hhalt, hsync⟩
  | interrupted =>
    rw [State.takeInterrupt_eq]
    exact ⟨State.store_wf (s := s.busTaken) _ _ hmem, nofun, nofun, hstopped, hsync⟩

/-- An instruction that a running CPU, not held by MSYNC*, runs with the bus keeps the invariant. -/
theorem runInstruction_ok (hok : s.Ok) (howned : s.busReleased = false) (hfree : s.syncLow = false)
    (hrun : s.run = .running) (h : runInstruction s = .next t) : t.Ok := by
  obtain ⟨u, hexec, rfl⟩ := runInstruction_next.mp h
  have hfetch := s.fetch_state
  generalize s.fetch.1 = i at hexec
  generalize s.fetch.2 = v at hexec hfetch
  have hmem : v.mem.wf = true := by rw [hfetch]; exact hok.memory
  have hvrun : v.run = .running := by rw [hfetch]; exact hrun
  have hrest := (exec_frame hexec).rest
  have hreleased : u.busReleased = false := by rw [hrest, hfetch]; exact howned
  have hsync : u.syncLow = false := by rw [hrest, hfetch]; exact hfree
  rw [State.finish_eq]
  refine ⟨exec_wf (t := u) hexec hmem, fun h => ?_, fun h => ?_, fun h => ?_, fun h => ?_⟩
  · exact absurd (hreleased.symm.trans h) Bool.false_ne_true
  · simp only [Bool.and_eq_true, Bool.not_eq_true', beq_iff_eq] at h
    obtain ⟨hhalt, hinterruptable, hurun⟩ := h
    obtain ⟨hdbl, hpending⟩ := exec_interruptable hexec hinterruptable
    simp only [hhalt]
    exact ⟨hurun, hdbl, hpending.trans hhalt⟩
  · cases hhalt : v.haltPending with
    | true => rfl
    | false =>
      simp only [hhalt] at h
      exact (exec_stopped hexec hvrun h).trans hhalt
  · exact absurd (hsync.symm.trans h) Bool.false_ne_true

/-- Settles O2: what is done at a boundary keeps the invariant, and so does an instruction in the sampled state. -/
theorem stepKeepsInvariant : Obligations.StepKeepsInvariant := by
  unfold Obligations.StepKeepsInvariant
  intro s t hok hstep
  obtain hacted | ⟨u, hfetch, hrun⟩ := step_next.mp hstep
  · exact (hacted ▸ attends_attend s).ok hok.sample
  · obtain ⟨rfl, hfree, hrunning⟩ := fetch_of_attend hfetch
    exact runInstruction_ok (s := s.sample.busTaken) hok.sample.busTaken rfl hfree hrunning hrun

/-! Cycles and micro states (R73, R400) -/

theorem microStates_append (xs ys : List Event) : microStates (xs ++ ys) = microStates xs + microStates ys := by
  rw [microStates, List.filter_append, List.length_append]
  rfl

theorem microStates_replicate (n : Nat) : microStates (List.replicate n .nact) = n := by
  rw [microStates, List.filter_replicate_of_pos rfl, List.length_replicate]

/-- One micro state for the NACT after the first word, three for each word, and one more after a direct address. -/
theorem microStates_fetchReads {n : Nat} {direct : Bool} (hn : n = 1 ∨ n = 2 ∨ n = 3) (hdirect : direct = true → n = 2)
    (pc w1 w2 w3 : Word) : microStates (fetchReads pc n direct w1 w2 w3) = 1 + 3 * n + direct.toNat := by
  cases direct with
  | true =>
    obtain rfl := hdirect rfl
    rfl
  | false => obtain rfl | rfl | rfl := hn <;> rfl

/-- The accesses through a pointer: three micro states for each word read. -/
theorem microStates_pointerReads {m : Reg} (h6 : m = .r6 → s.dbl = false) :
    microStates (pointerReads s m) = if s.dbl then 6 else 3 := by
  rw [pointerReads]
  split
  · rw [h6 ‹_›]
    rfl
  · split <;> rfl

/-- An input through the stack pointer is supported without SDBD alone (R161). -/
theorem dbl_of_inputIndirect {m : Reg} {k : Word → State → State} (h : s.inputIndirect m k = .next t) (h6 : m = .r6) :
    s.dbl = false := by
  obtain ⟨hdbl, -⟩ | ⟨-, hne, -⟩ := State.inputIndirect_next.mp h
  · exact hdbl
  · exact absurd h6 hne

/-- The fetch and the accesses that the log shows are those the model counts. -/
theorem accessStates_eq {i : Instr} (h : exec i s = .next t) :
    i.accessStates s.dbl = 1 + 3 * fetchedWords s.dbl i + (isDirect i).toNat + microStates (eventsOf s i) := by
  cases i with
  | mviAt m _ | addAt m _ | subAt m _ | cmpAt m _ | andAt m _ | xorAt m _ =>
    have hreads := microStates_pointerReads (dbl_of_inputIndirect (m := m) h)
    simp only [Instr.accessStates, fetchedWords, isDirect, eventsOf, hreads]
    cases s.dbl <;> rfl
  | pulr _ =>
    simp only [Instr.accessStates, dbl_of_inputIndirect (m := .r6) h rfl]
    rfl
  | mvii _ _ | addi _ _ | subi _ _ | cmpi _ _ | andi _ _ | xori _ _ =>
    simp only [Instr.accessStates, fetchedWords]
    cases s.dbl <;> rfl
  | _ => rfl

theorem le_branchCycles (taken : Bool) : 7 ≤ branchCycles taken := by cases taken <;> decide

theorem le_shiftCycles (n : Count) : 4 ≤ shiftCycles n := by cases n <;> decide

theorem le_moveCycles (d : Reg) : 4 ≤ moveCycles d := by cases d <;> decide

theorem le_immediateCycles (dbl : Bool) : (if dbl then 10 else 7) ≤ immediateCycles dbl := by cases dbl <;> decide

theorem le_indirectCycles (m : Reg) (dbl : Bool) : (if dbl then 10 else 7) ≤ indirectCycles m dbl := by
  rw [indirectCycles]
  split_ifs <;> decide

/-- There are cycles for all the accesses (R400). -/
theorem accessStates_le_cycles (i : Instr) (s : State) : i.accessStates s.dbl ≤ i.cycles s := by
  cases i with
  | swap _ n | sll _ n | rlc _ n | sllc _ n | slr _ n | sar _ n | rrc _ n | sarc _ n => exact le_shiftCycles n
  | movr _ d | tstr d => exact le_moveCycles d
  | b _ _ | bc _ _ | bov _ _ | bpl _ _ | bze _ _ | blt _ _ | ble _ _ | busc _ _ | nopp _ _ | bnc _ _ | bnov _ _
  | bmi _ _ | bnze _ _ | bge _ _ | bgt _ _ | besc _ _ | bext _ _ _ | blgt _ _ | bllt _ _ | beq _ _ | bneq _ _ =>
    exact le_branchCycles _
  | mvii _ _ | addi _ _ | subi _ _ | cmpi _ _ | andi _ _ | xori _ _ => exact le_immediateCycles s.dbl
  | mviAt m _ | addAt m _ | subAt m _ | cmpAt m _ | andAt m _ | xorAt m _ => exact le_indirectCycles m s.dbl
  | pulr _ => exact le_indirectCycles .r6 s.dbl
  | _ => exact Nat.le_of_ble_eq_true rfl

/-- An instruction's accesses and the NACT after them make up its cycles. -/
theorem microStates_runInstruction (h : runInstruction s = .next t) :
    microStates t.events + s.cycles = microStates s.events + t.cycles := by
  obtain ⟨u, hexec, rfl⟩ := runInstruction_next.mp h
  have hfetched : s.fetch.1 = s.fetched := by rw [State.fetch_eq]
  rw [hfetched] at hexec ⊢
  have hform := s.fetched_hasForm
  have hreads := microStates_fetchReads (fetchLength_range s.dbl (s.wordAt 0)) fetchLength_of_directMode s.pc
    (s.wordAt 0) (s.wordAt 1) (s.wordAt 2)
  have hfetch : microStates s.fetch.2.events =
      1 + 3 * fetchedWords s.dbl s.fetched + (isDirect s.fetched).toNat + microStates s.events := by
    rw [hform.words, hform.addressed, ← hreads, ← microStates_append, State.fetch_eq]
    rfl
  have haccess := accessStates_eq hexec
  have hle := accessStates_le_cycles s.fetched s.fetch.2
  have hcycles : u.cycles = s.cycles := by rw [(exec_frame hexec).rest, State.fetch_state]
  rw [State.fetch_dbl] at haccess hle
  simp only [State.finish_eq, microStates_append, microStates_replicate, exec_events hform.wellFormed hexec, hfetch,
    Instr.idleStates, State.fetch_dbl, hcycles]
  omega

/-- Settles O58: the accesses form by form, and with the fetch and the NACT after them one code in every cycle. -/
theorem busAccessesOfEachInstruction : Obligations.BusAccessesOfEachInstruction := by
  unfold Obligations.BusAccessesOfEachInstruction
  exact ⟨fun _ _ _ hwf h => exec_events hwf h, fun _ _ h => microStates_runInstruction h⟩

end Sys2Proof.Machine
end
